-- ==== Sys2Proof/Word.lean ====
section
/-! DEFINITION. The widths the spec gives its values (R6, R7): every value is unsigned, bit 0 is the least significant. -/

namespace Sys2Proof

/-- One memory cell, one general register, one timer: 8 bits (`BYTE_W`, `REG_W`, `TIMER_W` of R6). -/
abbrev Byte := BitVec 8

/-- An instruction word, the program counter, a stack entry: 16 bits (R60, `PC_W`, `STACK_ENTRY_W` of R6). -/
abbrev Word := BitVec 16

/-- The index register and the field `NNN`: 12 bits (`I_W` of R6, R61). -/
abbrev Addr := BitVec 12

/-- One nibble: a register number, a key code, or the field `N` (R61). All 16 values are legal (R63). -/
abbrev Nibble := BitVec 4

end Sys2Proof
end

