-- ==== Sys2Proof/Syntax.lean ====
section
/-! DEFINITION. The 33 instructions of the transition table (R64), one constructor per row of spec/opcode_table.json, in the
table's order. `x`, `y`, `n`, `nn`, `nnn` are the fields X, Y, N, NN, NNN of R61; each has exactly the width of its field, so
an operand out of range cannot be written. -/

namespace Sys2Proof

/-- The instructions of R64. The docstring of each gives its pattern and its rule. -/
inductive Instr where
  /-- `00E0` CLS, R130. -/
  | cls
  /-- `00EE` RET, R80. -/
  | ret
  /-- `1NNN` JP, R81. -/
  | jp (nnn : Addr)
  /-- `2NNN` CALL, R82. -/
  | call (nnn : Addr)
  /-- `3XNN` SEB, R90. -/
  | seb (x : Nibble) (nn : Byte)
  /-- `4XNN` SNEB, R91. -/
  | sneb (x : Nibble) (nn : Byte)
  /-- `5XY0` SE, R92. -/
  | se (x y : Nibble)
  /-- `6XNN` LDB, R100. -/
  | ldb (x : Nibble) (nn : Byte)
  /-- `7XNN` ADDB, R101. -/
  | addb (x : Nibble) (nn : Byte)
  /-- `8XY0` MOV, R111. -/
  | mov (x y : Nibble)
  /-- `8XY1` OR, R112. -/
  | or (x y : Nibble)
  /-- `8XY2` AND, R113. -/
  | and (x y : Nibble)
  /-- `8XY3` XOR, R114. -/
  | xor (x y : Nibble)
  /-- `8XY4` ADD, R115. -/
  | add (x y : Nibble)
  /-- `8XY5` SUB, R116. -/
  | sub (x y : Nibble)
  /-- `8XY6` SHR, R117. -/
  | shr (x y : Nibble)
  /-- `8XY7` SUBN, R118. -/
  | subn (x y : Nibble)
  /-- `8XYE` SHL, R119. -/
  | shl (x y : Nibble)
  /-- `9XY0` SNE, R93. -/
  | sne (x y : Nibble)
  /-- `ANNN` LDI, R102. -/
  | ldi (nnn : Addr)
  /-- `BNNN` JPV, R83: its operands are the fields X and NN (R62, C4). -/
  | jpv (x : Nibble) (nn : Byte)
  /-- `CXNN` RND, R103. -/
  | rnd (x : Nibble) (nn : Byte)
  /-- `DXYN` DRW, R131. -/
  | drw (x y n : Nibble)
  /-- `EX9E` SKP, R94: `x` is the key code itself. -/
  | skp (x : Nibble)
  /-- `EXA1` SKNP, R95: `x` is the key code itself. -/
  | sknp (x : Nibble)
  /-- `FX07` LDDT, R140. -/
  | lddt (x : Nibble)
  /-- `FX15` STDT, R141. -/
  | stdt (x : Nibble)
  /-- `FX18` STST, R142. -/
  | stst (x : Nibble)
  /-- `FX1E` ADDI, R143. -/
  | addi (x : Nibble)
  /-- `FX29` FONT, R144. -/
  | font (x : Nibble)
  /-- `FX33` BCD, R145. -/
  | bcd (x : Nibble)
  /-- `FX55` STM, R146. -/
  | stm (x : Nibble)
  /-- `FX65` LDM, R147. -/
  | ldm (x : Nibble)
  deriving DecidableEq, Repr

end Sys2Proof
end

