-- ==== Sys2Proof/WellFormed.lean ====
section
/-! DEFINITION. The formats of R62, the assembler lines of R68 and what makes one well formed: a known mnemonic, the number of
operands its format has, each operand within its field. An `Instr` carries fields of the exact widths, so the line of every
`Instr` is well formed (Laws/PerInstr.lean proves it, one lemma per constructor); the checks bite on raw lines. -/

namespace Sys2Proof

/-- The six formats of R62. -/
inductive Format where
  /-- Whole word fixed. -/
  | w
  /-- Address: NNN. -/
  | a
  /-- Register and byte: X, NN. -/
  | xb
  /-- Two registers: X, Y. -/
  | xy
  /-- Two registers and a nibble: X, Y, N. -/
  | xyn
  /-- One register (or key code) and a fixed low byte: X. -/
  | xf
  deriving DecidableEq, Repr

/-- How many values each operand of a format may take, in the order the operands are written (R61, R68). -/
def Format.bounds : Format → List Nat
  | .w => []
  | .a => [4096]
  | .xb => [16, 256]
  | .xy => [16, 16]
  | .xyn => [16, 16, 16]
  | .xf => [16]

/-- The format of each of the 33 mnemonics of R64, in the table's order. -/
def formatTable : List (String × Format) :=
  [("CLS", .w), ("RET", .w), ("JP", .a), ("CALL", .a), ("SEB", .xb), ("SNEB", .xb), ("SE", .xy), ("LDB", .xb),
   ("ADDB", .xb), ("MOV", .xy), ("OR", .xy), ("AND", .xy), ("XOR", .xy), ("ADD", .xy), ("SUB", .xy), ("SHR", .xy)] ++
  [("SUBN", .xy), ("SHL", .xy), ("SNE", .xy), ("LDI", .a), ("JPV", .xb), ("RND", .xb), ("DRW", .xyn), ("SKP", .xf),
   ("SKNP", .xf), ("LDDT", .xf), ("STDT", .xf), ("STST", .xf), ("ADDI", .xf), ("FONT", .xf), ("BCD", .xf),
   ("STM", .xf), ("LDM", .xf)]

/-- The format a mnemonic has; none for a word that is no mnemonic of R64. -/
def formatOf (mnemonic : String) : Option Format :=
  formatTable.lookup mnemonic

/-- A line of the assembler syntax of R68: a mnemonic and its operands as numbers. -/
structure AsmLine where
  mnemonic : String
  operands : List Nat
  deriving DecidableEq, Repr

/-- Each operand is within the range of its field; both lists have one entry per operand. -/
def operandsFit : List Nat → List Nat → Bool
  | [], [] => true
  | o :: os, b :: bs => decide (o < b) && operandsFit os bs
  | _, _ => false

/-- R68: a line is well formed when its mnemonic is one of the 33 and its operands are as many as the format has, each in
range. -/
def AsmLine.wellFormed (l : AsmLine) : Bool :=
  match formatOf l.mnemonic with
  | none => false
  | some f => operandsFit l.operands f.bounds

/-- The mnemonic of R64 and of spec/opcode_table.json. -/
def Instr.mnemonic : Instr → String
  | .cls => "CLS"
  | .ret => "RET"
  | .jp _ => "JP"
  | .call _ => "CALL"
  | .seb _ _ => "SEB"
  | .sneb _ _ => "SNEB"
  | .se _ _ => "SE"
  | .ldb _ _ => "LDB"
  | .addb _ _ => "ADDB"
  | .mov _ _ => "MOV"
  | .or _ _ => "OR"
  | .and _ _ => "AND"
  | .xor _ _ => "XOR"
  | .add _ _ => "ADD"
  | .sub _ _ => "SUB"
  | .shr _ _ => "SHR"
  | .subn _ _ => "SUBN"
  | .shl _ _ => "SHL"
  | .sne _ _ => "SNE"
  | .ldi _ => "LDI"
  | .jpv _ _ => "JPV"
  | .rnd _ _ => "RND"
  | .drw _ _ _ => "DRW"
  | .skp _ => "SKP"
  | .sknp _ => "SKNP"
  | .lddt _ => "LDDT"
  | .stdt _ => "STDT"
  | .stst _ => "STST"
  | .addi _ => "ADDI"
  | .font _ => "FONT"
  | .bcd _ => "BCD"
  | .stm _ => "STM"
  | .ldm _ => "LDM"

/-- The format of R62. -/
def Instr.format : Instr → Format
  | .cls | .ret => .w
  | .jp _ | .call _ | .ldi _ => .a
  | .seb _ _ | .sneb _ _ | .ldb _ _ | .addb _ _ | .jpv _ _ | .rnd _ _ => .xb
  | .se _ _ | .mov _ _ | .or _ _ | .and _ _ | .xor _ _ | .add _ _ | .sub _ _ | .shr _ _ | .subn _ _ | .shl _ _
  | .sne _ _ => .xy
  | .drw _ _ _ => .xyn
  | .skp _ | .sknp _ | .lddt _ | .stdt _ | .stst _ | .addi _ | .font _ | .bcd _ | .stm _ | .ldm _ => .xf

/-- The operands as numbers, in the order of R68. -/
def Instr.operands : Instr → List Nat
  | .cls | .ret => []
  | .jp nnn | .call nnn | .ldi nnn => [nnn.toNat]
  | .seb x nn | .sneb x nn | .ldb x nn | .addb x nn | .jpv x nn | .rnd x nn => [x.toNat, nn.toNat]
  | .se x y | .mov x y | .or x y | .and x y | .xor x y | .add x y | .sub x y | .shr x y | .subn x y | .shl x y
  | .sne x y => [x.toNat, y.toNat]
  | .drw x y n => [x.toNat, y.toNat, n.toNat]
  | .skp x | .sknp x | .lddt x | .stdt x | .stst x | .addi x | .font x | .bcd x | .stm x | .ldm x => [x.toNat]

/-- The instruction's line of the assembler syntax (R68). -/
def Instr.asm (i : Instr) : AsmLine :=
  { mnemonic := i.mnemonic, operands := i.operands }

/-- An instruction is well formed when its line is, and its format is the one its mnemonic has. -/
def Instr.wellFormed (i : Instr) : Bool :=
  i.asm.wellFormed && decide (formatOf i.mnemonic = some i.format)

end Sys2Proof
end

