-- ==== Sys2Proof/Decode.lean ====
section
/-! DEFINITION. The fields of the instruction word (R61), the decoder (R64 to R66), the encoder, and the opcode table with its
match and mask (R64). -/

namespace Sys2Proof

/-- `G`, the group: `op[15:12]` (R61). -/
def fieldG (op : Word) : Nibble := op.extractLsb' 12 4

/-- `X`: `op[11:8]` (R61). -/
def fieldX (op : Word) : Nibble := op.extractLsb' 8 4

/-- `Y`: `op[7:4]` (R61). -/
def fieldY (op : Word) : Nibble := op.extractLsb' 4 4

/-- `N`: `op[3:0]` (R61). -/
def fieldN (op : Word) : Nibble := op.extractLsb' 0 4

/-- `NN`: `op[7:0]` (R61). -/
def fieldNN (op : Word) : Byte := op.extractLsb' 0 8

/-- `NNN`: `op[11:0]` (R61). -/
def fieldNNN (op : Word) : Addr := op.extractLsb' 0 12

/-- Why bytes are no instruction. -/
inductive DecodeError where
  /-- Fewer than two bytes are left; every instruction is two bytes long (R60). -/
  | truncated
  /-- No row of R64 matches the word (R66). -/
  | unrecognized (op : Word)
  deriving DecidableEq, Repr

/-- Group 8 of R64, chosen by the low nibble. -/
def decode8 (op : Word) : Option Instr :=
  match (fieldN op).toNat with
  | 0x0 => some (.mov (fieldX op) (fieldY op))
  | 0x1 => some (.or (fieldX op) (fieldY op))
  | 0x2 => some (.and (fieldX op) (fieldY op))
  | 0x3 => some (.xor (fieldX op) (fieldY op))
  | 0x4 => some (.add (fieldX op) (fieldY op))
  | 0x5 => some (.sub (fieldX op) (fieldY op))
  | 0x6 => some (.shr (fieldX op) (fieldY op))
  | 0x7 => some (.subn (fieldX op) (fieldY op))
  | 0xE => some (.shl (fieldX op) (fieldY op))
  | _ => none

/-- Group E of R64, chosen by the low byte. -/
def decodeE (op : Word) : Option Instr :=
  if fieldNN op = 0x9E#8 then some (.skp (fieldX op))
  else if fieldNN op = 0xA1#8 then some (.sknp (fieldX op))
  else none

/-- Group F of R64, chosen by the low byte. -/
def decodeF (op : Word) : Option Instr :=
  if fieldNN op = 0x07#8 then some (.lddt (fieldX op))
  else if fieldNN op = 0x15#8 then some (.stdt (fieldX op))
  else if fieldNN op = 0x18#8 then some (.stst (fieldX op))
  else if fieldNN op = 0x1E#8 then some (.addi (fieldX op))
  else if fieldNN op = 0x29#8 then some (.font (fieldX op))
  else if fieldNN op = 0x33#8 then some (.bcd (fieldX op))
  else if fieldNN op = 0x55#8 then some (.stm (fieldX op))
  else if fieldNN op = 0x65#8 then some (.ldm (fieldX op))
  else none

/-- The decode table of R64 over the group nibble; exact on every fixed nibble (R65). -/
def decodeRow (op : Word) : Option Instr :=
  match (fieldG op).toNat with
  | 0x0 => if op = 0x00E0#16 then some .cls else if op = 0x00EE#16 then some .ret else none
  | 0x1 => some (.jp (fieldNNN op))
  | 0x2 => some (.call (fieldNNN op))
  | 0x3 => some (.seb (fieldX op) (fieldNN op))
  | 0x4 => some (.sneb (fieldX op) (fieldNN op))
  | 0x5 => if fieldN op = 0#4 then some (.se (fieldX op) (fieldY op)) else none
  | 0x6 => some (.ldb (fieldX op) (fieldNN op))
  | 0x7 => some (.addb (fieldX op) (fieldNN op))
  | 0x8 => decode8 op
  | 0x9 => if fieldN op = 0#4 then some (.sne (fieldX op) (fieldY op)) else none
  | 0xA => some (.ldi (fieldNNN op))
  | 0xB => some (.jpv (fieldX op) (fieldNN op))
  | 0xC => some (.rnd (fieldX op) (fieldNN op))
  | 0xD => some (.drw (fieldX op) (fieldY op) (fieldN op))
  | 0xE => decodeE op
  | _ => decodeF op

/-- R64: the instruction a word is, or the word named as unrecognized (R66). Total on all 65536 words. -/
def decode (op : Word) : Except DecodeError Instr :=
  match decodeRow op with
  | some i => .ok i
  | none => .error (.unrecognized op)

/-- The word two bytes make, the byte at the lower address high (R45, R46). -/
def wordOfBytes (hi lo : Byte) : Word := hi ++ lo

/-- The byte of a word that lies at the lower address (R46). -/
def highByte (op : Word) : Byte := op.extractLsb' 8 8

/-- The byte of a word that lies at the higher address (R46). -/
def lowByte (op : Word) : Byte := op.extractLsb' 0 8

/-- The instruction at the front of a byte sequence, with the bytes after it. Total on any bytes. -/
def decodeBytes : List Byte → Except DecodeError (Instr × List Byte)
  | hi :: lo :: rest =>
    match decode (wordOfBytes hi lo) with
    | .ok i => .ok (i, rest)
    | .error e => .error e
  | _ => .error .truncated

/-- Format A of R62: group and NNN. -/
def encodeA (g : Nibble) (nnn : Addr) : Word := g ++ nnn

/-- Format XB of R62: group, X and NN. -/
def encodeXB (g x : Nibble) (nn : Byte) : Word := g ++ x ++ nn

/-- Formats XY and XYN of R62: group, X, Y and the low nibble. -/
def encodeXY (g x y n : Nibble) : Word := g ++ x ++ y ++ n

/-- The word of an instruction, each operand placed in its field (R61, R62, R64). -/
def encode : Instr → Word
  | .cls => 0x00E0#16
  | .ret => 0x00EE#16
  | .jp nnn => encodeA 0x1#4 nnn
  | .call nnn => encodeA 0x2#4 nnn
  | .seb x nn => encodeXB 0x3#4 x nn
  | .sneb x nn => encodeXB 0x4#4 x nn
  | .se x y => encodeXY 0x5#4 x y 0x0#4
  | .ldb x nn => encodeXB 0x6#4 x nn
  | .addb x nn => encodeXB 0x7#4 x nn
  | .mov x y => encodeXY 0x8#4 x y 0x0#4
  | .or x y => encodeXY 0x8#4 x y 0x1#4
  | .and x y => encodeXY 0x8#4 x y 0x2#4
  | .xor x y => encodeXY 0x8#4 x y 0x3#4
  | .add x y => encodeXY 0x8#4 x y 0x4#4
  | .sub x y => encodeXY 0x8#4 x y 0x5#4
  | .shr x y => encodeXY 0x8#4 x y 0x6#4
  | .subn x y => encodeXY 0x8#4 x y 0x7#4
  | .shl x y => encodeXY 0x8#4 x y 0xE#4
  | .sne x y => encodeXY 0x9#4 x y 0x0#4
  | .ldi nnn => encodeA 0xA#4 nnn
  | .jpv x nn => encodeXB 0xB#4 x nn
  | .rnd x nn => encodeXB 0xC#4 x nn
  | .drw x y n => encodeXY 0xD#4 x y n
  | .skp x => encodeXB 0xE#4 x 0x9E#8
  | .sknp x => encodeXB 0xE#4 x 0xA1#8
  | .lddt x => encodeXB 0xF#4 x 0x07#8
  | .stdt x => encodeXB 0xF#4 x 0x15#8
  | .stst x => encodeXB 0xF#4 x 0x18#8
  | .addi x => encodeXB 0xF#4 x 0x1E#8
  | .font x => encodeXB 0xF#4 x 0x29#8
  | .bcd x => encodeXB 0xF#4 x 0x33#8
  | .stm x => encodeXB 0xF#4 x 0x55#8
  | .ldm x => encodeXB 0xF#4 x 0x65#8

/-- The two bytes of an instruction in address order (R45, R60). -/
def encodeBytes (i : Instr) : List Byte := [highByte (encode i), lowByte (encode i)]

/-- One row of the table of R64: a word is the instruction when `(op AND mask) = pattern`. -/
structure OpcodeRow where
  mnemonic : String
  pattern : Word
  mask : Word
  deriving DecidableEq, Repr

/-- The first half of the table of R64. -/
def opcodeTableLow : List OpcodeRow :=
  [⟨"CLS", 0x00E0#16, 0xFFFF#16⟩, ⟨"RET", 0x00EE#16, 0xFFFF#16⟩, ⟨"JP", 0x1000#16, 0xF000#16⟩,
   ⟨"CALL", 0x2000#16, 0xF000#16⟩, ⟨"SEB", 0x3000#16, 0xF000#16⟩, ⟨"SNEB", 0x4000#16, 0xF000#16⟩,
   ⟨"SE", 0x5000#16, 0xF00F#16⟩, ⟨"LDB", 0x6000#16, 0xF000#16⟩, ⟨"ADDB", 0x7000#16, 0xF000#16⟩,
   ⟨"MOV", 0x8000#16, 0xF00F#16⟩, ⟨"OR", 0x8001#16, 0xF00F#16⟩, ⟨"AND", 0x8002#16, 0xF00F#16⟩,
   ⟨"XOR", 0x8003#16, 0xF00F#16⟩, ⟨"ADD", 0x8004#16, 0xF00F#16⟩, ⟨"SUB", 0x8005#16, 0xF00F#16⟩,
   ⟨"SHR", 0x8006#16, 0xF00F#16⟩, ⟨"SUBN", 0x8007#16, 0xF00F#16⟩]

/-- The second half of the table of R64. -/
def opcodeTableHigh : List OpcodeRow :=
  [⟨"SHL", 0x800E#16, 0xF00F#16⟩, ⟨"SNE", 0x9000#16, 0xF00F#16⟩, ⟨"LDI", 0xA000#16, 0xF000#16⟩,
   ⟨"JPV", 0xB000#16, 0xF000#16⟩, ⟨"RND", 0xC000#16, 0xF000#16⟩, ⟨"DRW", 0xD000#16, 0xF000#16⟩,
   ⟨"SKP", 0xE09E#16, 0xF0FF#16⟩, ⟨"SKNP", 0xE0A1#16, 0xF0FF#16⟩, ⟨"LDDT", 0xF007#16, 0xF0FF#16⟩,
   ⟨"STDT", 0xF015#16, 0xF0FF#16⟩, ⟨"STST", 0xF018#16, 0xF0FF#16⟩, ⟨"ADDI", 0xF01E#16, 0xF0FF#16⟩,
   ⟨"FONT", 0xF029#16, 0xF0FF#16⟩, ⟨"BCD", 0xF033#16, 0xF0FF#16⟩, ⟨"STM", 0xF055#16, 0xF0FF#16⟩,
   ⟨"LDM", 0xF065#16, 0xF0FF#16⟩]

/-- The 33 rows of R64. -/
def opcodeTable : List OpcodeRow := opcodeTableLow ++ opcodeTableHigh

/-- R64: a row selects a word. -/
def OpcodeRow.selects (r : OpcodeRow) (op : Word) : Bool := op &&& r.mask = r.pattern

/-- A word that some row of R64 selects (R66 calls every other word unrecognized). -/
def recognized (op : Word) : Bool := opcodeTable.any (fun r => r.selects op)

/-- Each operand of a line placed in its field of R61, by format. -/
def placeOperands : Format → List Nat → Word
  | .w, _ => 0#16
  | .a, os => BitVec.ofNat 16 (os.getD 0 0)
  | .xb, os => BitVec.ofNat 16 (os.getD 0 0 * 256 + os.getD 1 0)
  | .xy, os => BitVec.ofNat 16 (os.getD 0 0 * 256 + os.getD 1 0 * 16)
  | .xyn, os => BitVec.ofNat 16 (os.getD 0 0 * 256 + os.getD 1 0 * 16 + os.getD 2 0)
  | .xf, os => BitVec.ofNat 16 (os.getD 0 0 * 256)

/-- The word of an assembler line (R68): the pattern of its mnemonic's row with the operands placed in their fields; none for
a line that is not well formed. -/
def AsmLine.word (l : AsmLine) : Option Word :=
  if l.wellFormed then
    match formatOf l.mnemonic, opcodeTable.find? (fun r => r.mnemonic == l.mnemonic) with
    | some f, some r => some (r.pattern ||| placeOperands f l.operands)
    | _, _ => none
  else none

/-- The bytes of the instruction whose bits are `w` numbered as spec/opcode_table.json numbers them, every bit above `nbits`
zero: one 16-bit word, high byte first (R45, R60). -/
def tableBytes (nbits w : Nat) : List Byte :=
  [highByte (BitVec.ofNat 16 (w % 2 ^ nbits)), lowByte (BitVec.ofNat 16 (w % 2 ^ nbits))]

/-- The instruction the decoder reads from those bytes; none where it refuses. -/
def decodeTableWord (nbits w : Nat) : Option Instr :=
  match decodeBytes (tableBytes nbits w) with
  | .ok r => some r.1
  | .error _ => none

end Sys2Proof
end

