-- ==== Sys2Proof/Config.lean ====
section
/-! DEFINITION. The parameters of the CORE (R6): the fixed ones as constants, the open ones as the structure `Params` that a
state carries, and the free values of the inputs (R21, R103). -/

namespace Sys2Proof

/-- `MEM_SIZE` of R6: bytes of memory, addresses 0x000 to 0xFFF. -/
def Config.memSize : Nat := 4096

/-- `FONT_LEN` of R6: 16 glyphs of 5 bytes, from address `FONT_BASE` = 0. -/
def Config.fontLen : Nat := 80

/-- `GLYPH_LEN` of R6: bytes per glyph. -/
def Config.glyphLen : Nat := 5

/-- `PROG_BASE` of R6: where a ROM is loaded and where PC starts. -/
def Config.progBase : Nat := 0x200

/-- `MAX_ROM` of R6: the largest ROM, `MEM_SIZE - PROG_BASE`. -/
def Config.maxRom : Nat := 3584

/-- The parameters of R6 that an implementation sets and no run changes. A state carries them, so that a statement about every
state is a statement about every setting. -/
structure Params where
  /-- `STACK_DEPTH`: the most entries the call stack holds; `none` is "unbounded" (R17, D5). -/
  stackDepth : Option Nat
  /-- `FONT[0..79]`: the font bytes reset puts at 0x000 to 0x04F (R42, D19). -/
  font : Vector Byte 80
  deriving DecidableEq, Repr

/-- The key-state the host holds at the n-th sample of an input: a free value, nothing constrains it (R21, U8; log entry 1). -/
opaque Config.keysInput : Nat → Word

/-- The random byte the host supplies at the n-th sample of an input: a free value, nothing constrains it (R103, U3, D10; log
entry 1). -/
opaque Config.rndInput : Nat → Byte

end Sys2Proof
end

