-- ==== Sys2Proof/Machine/Defaults.lean ====
section
/-! DEFINITION. The values `State.reset` takes where the spec offers a default or leaves the value to the host. -/

namespace Sys2Proof.Machine

/-- The customary CHIP-8 font, the default of R42. PRESUMED (log entry 3; unsafe): the spec marks the bytes as general
knowledge, not in source (D19, G1). -/
def customaryFont : Vector Byte 80 :=
  #v[0xF0, 0x90, 0x90, 0x90, 0xF0, 0x20, 0x60, 0x20, 0x20, 0x70,
     0xF0, 0x10, 0xF0, 0x80, 0xF0, 0xF0, 0x10, 0xF0, 0x10, 0xF0,
     0x90, 0x90, 0xF0, 0x10, 0x10, 0xF0, 0x80, 0xF0, 0x10, 0xF0,
     0xF0, 0x80, 0xF0, 0x90, 0xF0, 0xF0, 0x10, 0x20, 0x40, 0x40,
     0xF0, 0x90, 0xF0, 0x90, 0xF0, 0xF0, 0x90, 0xF0, 0x10, 0xF0,
     0xF0, 0x90, 0xF0, 0x90, 0x90, 0xE0, 0x90, 0xE0, 0x90, 0xE0,
     0xF0, 0x80, 0x80, 0x80, 0xF0, 0xE0, 0x90, 0x90, 0x90, 0xE0,
     0xF0, 0x80, 0xF0, 0x80, 0xF0, 0xF0, 0x80, 0xF0, 0x80, 0x80]

/-- The parameters of the machine right after reset: the unbounded stack of CHIP8JS (R17) and the default font (R42). DESIGN
CHOICE (log entries 3 and 4; unsafe): the spec leaves both open. -/
def defaultParams : Params :=
  { stackDepth := none, font := customaryFont }

/-- The key-state of `State.reset`. DESIGN CHOICE (log entry 2; unsafe): reset does not set it (R192). -/
def initialKeys : Word := 0#16

/-- The random input of `State.reset`. DESIGN CHOICE (log entry 2; unsafe): reset does not set it (R192). -/
def initialRnd : Byte := 0#8

/-- The run level of `State.reset`: started. DESIGN CHOICE (log entry 2; unsafe): reset does not set it (R192). -/
def initialRun : Bool := true

end Sys2Proof.Machine
end

