-- ==== Sys2Proof/Machine/State.lean ====
section
/-! DEFINITION. The whole state of the CORE (R10), the levels on its inputs (R25), its parameters (R6) and the state right
after reset (R29, R190). -/

namespace Sys2Proof.Machine

/-- Memory as a list of (address, byte) pairs in one canonical form: addresses strictly rising, no entry equal to what an
unlisted address reads as (`Memory.wf` in Machine/Ops.lean). An unlisted address reads as its reset contents (R29). -/
abbrev Memory := List Host.Cell

/-- The framebuffer `FB[y][x]`: 32 rows of 64 one-bit cells, `true` is on (R18). Coordinates out of range cannot be written
down (U5). -/
abbrev FrameBuffer := Vector (Vector Bool 64) 32

/-- The state of the CORE. The docstring of each field names its rule. -/
structure State where
  /-- `MEM`, 4096 cells of 8 bits (R40). -/
  mem : Memory
  /-- `V[0..15]` (R11); `V[15]` is VF (R12). -/
  v : Vector Byte 16
  /-- The index register `I`, 12 bits (R13). -/
  idx : Addr
  /-- `PC`, 16 bits, never masked (R14). -/
  pc : Word
  /-- `STACK` (R16), the newest entry first (log entry 10). -/
  stack : List Word
  /-- `FB` (R18). -/
  fb : FrameBuffer
  /-- `DT`, the delay timer (R19). -/
  dt : Byte
  /-- `ST`, the sound timer (R19); the output `st_value` is its value at the end of a tick (R172). -/
  st : Byte
  /-- The halt latch (R20). -/
  halted : Bool
  /-- `fault_code[2:0]` (R20, R160). -/
  faultCode : BitVec 3
  /-- `fault_info[15:0]` (R20, R160). -/
  faultInfo : Word
  /-- The input `keys[15:0]`: bit k is 1 when key k is pressed (R21). -/
  keys : Word
  /-- The input `rnd[7:0]` (R25, R103). -/
  rnd : Byte
  /-- The input `run` (R25, R196). -/
  run : Bool
  /-- The parameters of R6; no step changes them. -/
  params : Params
  /-- The model's own: how many `flush` events have been raised (R25, R132; log entry 6). -/
  flushes : Nat
  /-- The model's own: how many input samples have been taken; it names the next free input (log entry 1). -/
  samples : Nat
  deriving DecidableEq, Repr

/-- Reasons for the machine to stop without a next state. There is none: every fault of the spec has a described entry
(R166) and is a next state with `halted` set (log entry 5), so this type has no constructor. -/
inductive Fault where
  deriving DecidableEq, Repr

/-- Reasons the model gives an instruction no meaning. -/
inductive Refusal where
  /-- Raised only by an arm of `exec` whose instruction has no meaning yet; safe. No arm of this model raises it. -/
  | notModelled (mnemonic : String)
  deriving DecidableEq, Repr

/-- R29, R190, R191: the machine right after reset, for given parameters and given levels on the inputs, which reset does not
touch (R192). Memory lists nothing: every cell reads as its reset contents. -/
def State.resetWith (params : Params) (keys : Word) (rnd : Byte) (run : Bool) : State :=
  { mem := []
    v := Vector.replicate 16 0#8
    idx := 0#12
    pc := 0x0200#16
    stack := []
    fb := Vector.replicate 32 (Vector.replicate 64 false)
    dt := 0#8
    st := 0#8
    halted := false
    faultCode := 0#3
    faultInfo := 0#16
    keys := keys
    rnd := rnd
    run := run
    params := params
    flushes := 0
    samples := 0 }

/-- The machine right after reset (R29). The inputs and parameters have the values of Machine/Defaults.lean. -/
def State.reset : State :=
  State.resetWith defaultParams initialKeys initialRnd initialRun

end Sys2Proof.Machine
end

