-- ==== Sys2Proof/Machine/Ops.lean ====
section
/-! DEFINITION. The named operations over memory, registers, stack, framebuffer and timers (R8), faults (R160, R166), the fetch
(R45) and the parts of the tick around an instruction (R27). -/

namespace Sys2Proof.Machine

/-! ## Memory (R40 to R44) -/

/-- What an address no write has touched reads as: its reset contents, the font in 0x000 to 0x04F and 0x00 above (R29, R41,
R42). -/
def Memory.unlisted (font : Vector Byte 80) (a : Nat) : Byte :=
  if h : a < 80 then font[a] else 0#8

/-- The byte at an address (R43, for an address in range). -/
def Memory.read (font : Vector Byte 80) : Memory → Nat → Byte
  | [], a => Memory.unlisted font a
  | c :: m, a => if c.1 = a then c.2 else Memory.read font m a

/-- Lists a byte at an address, in address order. -/
def Memory.put : Memory → Nat → Byte → Memory
  | [], a, b => [(a, b)]
  | c :: m, a, b =>
    if a < c.1 then (a, b) :: c :: m
    else if a = c.1 then (a, b) :: m
    else c :: Memory.put m a b

/-- Takes an address off the list, wherever it stands. -/
def Memory.erase : Memory → Nat → Memory
  | [], _ => []
  | c :: m, a => if c.1 = a then Memory.erase m a else c :: Memory.erase m a

/-- Writes one byte and keeps the canonical form (R44, for an address in range): the byte an unlisted address reads as is not
listed. -/
def Memory.write (font : Vector Byte 80) (m : Memory) (a : Nat) (b : Byte) : Memory :=
  if b = Memory.unlisted font a then Memory.erase m a else Memory.put m a b

/-- The canonical form from an address on: strictly rising addresses inside `MEM` (R40), no entry equal to what an unlisted
address reads as. -/
def Memory.wfFrom (font : Vector Byte 80) : Nat → Memory → Bool
  | _, [] => true
  | lo, c :: m =>
    decide (lo ≤ c.1 ∧ c.1 < Config.memSize ∧ c.2 ≠ Memory.unlisted font c.1) && Memory.wfFrom font (c.1 + 1) m

/-- The canonical form of a memory. -/
def Memory.wf (font : Vector Byte 80) (m : Memory) : Bool := Memory.wfFrom font 0 m

/-- `MEM[a]`: the cell at an address in range. -/
def State.byte (s : State) (a : Nat) : Byte := Memory.read s.params.font s.mem a

/-- `MEM[a] <- b` for an address in range (R44). -/
def State.setByte (s : State) (a : Nat) (b : Byte) : State :=
  { s with mem := Memory.write s.params.font s.mem a b }

/-- The bytes of a run of `len` addresses from `base`, in address order (R49). -/
def State.readRun (s : State) (base : Nat) : Nat → List Byte
  | 0 => []
  | len + 1 => s.byte base :: s.readRun (base + 1) len

/-- Stores a run of bytes from `base` upward, in address order (R49). -/
def State.storeRun (s : State) (base : Nat) : List Byte → State
  | [] => s
  | b :: bs => (s.setByte base b).storeRun (base + 1) bs

/-! ## Registers, stack, framebuffer, timers -/

/-- `V[x]` (R11): no register is hardwired. -/
def State.reg (s : State) (x : Nibble) : Byte := s.v[x.toNat]'x.isLt

/-- `V[x] <- b` (R11). -/
def State.setReg (s : State) (x : Nibble) (b : Byte) : State := { s with v := s.v.set x.toNat b x.isLt }

/-- `V[k] <- MEM[base + k]` for k in 0..x; the registers above x keep their values (R147). -/
def State.loadRegs (s : State) (base : Nat) (x : Nibble) : State :=
  { s with v := Vector.ofFn fun k : Fin 16 => if k.val ≤ x.toNat then s.byte (base + k.val) else s.v[k.val] }

/-- `I <- a` (R13). -/
def State.setIdx (s : State) (a : Addr) : State := { s with idx := a }

/-- `pc <- target` (R8). -/
def State.setPc (s : State) (p : Word) : State := { s with pc := p }

/-- `advance()` of R15: PC + 2, on 16 bits, no 12-bit wrap. -/
def State.advance (s : State) : State := s.setPc (s.pc + 2#16)

/-- `skip()` of R15: advance twice, PC + 4. -/
def State.skip (s : State) : State := s.setPc (s.pc + 4#16)

/-- `push(e)` of R16. -/
def State.push (s : State) (e : Word) : State := { s with stack := e :: s.stack }

/-- The stack less its newest entry, the state part of `pop()` (R16). -/
def State.dropTop (s : State) : State := { s with stack := s.stack.tail }

/-- The call stack holds `STACK_DEPTH` entries; never with the unbounded stack (R17, R82). -/
def State.stackFull (s : State) : Bool :=
  match s.params.stackDepth with
  | none => false
  | some d => decide (d ≤ s.stack.length)

/-- `FB[y][x]` of a framebuffer (R18). -/
def FrameBuffer.cell (fb : FrameBuffer) (x : Fin 64) (y : Fin 32) : Bool := fb[y.val][x.val]

/-- A framebuffer with one cell written (R18). -/
def FrameBuffer.setCell (fb : FrameBuffer) (x : Fin 64) (y : Fin 32) (b : Bool) : FrameBuffer :=
  fb.set y.val (fb[y.val].set x.val b)

/-- The framebuffer with every cell off (R130). -/
def FrameBuffer.clear : FrameBuffer := Vector.replicate 32 (Vector.replicate 64 false)

/-- The read port `fb` of R25. -/
def State.pixel (s : State) (x : Fin 64) (y : Fin 32) : Bool := FrameBuffer.cell s.fb x y

/-- Replaces the framebuffer. -/
def State.setFb (s : State) (fb : FrameBuffer) : State := { s with fb := fb }

/-- `flush()` of R25 and R132: the event is counted (log entry 6). -/
def State.flush (s : State) : State := { s with flushes := s.flushes + 1 }

/-- `DT <- b` (R141). -/
def State.setDt (s : State) (b : Byte) : State := { s with dt := b }

/-- `ST <- b` (R142). -/
def State.setSt (s : State) (b : Byte) : State := { s with st := b }

/-- The output `st_value` (R25, R172): ST as it stands at the end of the tick (D28). -/
def State.stValue (s : State) : Byte := s.st

/-- The tone gate of R172. -/
def State.toneGate (s : State) : Bool := s.stValue ≠ 0#8

/-! ## Faults (R160 to R168) -/

/-- The fault kinds of R160, each with the diagnostic value it records. -/
inductive CoreFault where
  /-- R161: an access at or beyond 4096; the lowest out-of-range address. -/
  | outOfBounds (addr : Nat)
  /-- R162: RET on an empty stack. -/
  | stackUnderflow
  /-- R163: no row of R64 matches the word. -/
  | unrecognizedOpcode (op : Word)
  /-- R164: CALL on a full stack of finite depth. -/
  | stackOverflow
  deriving DecidableEq, Repr

/-- `fault_code` of R160 (D12). -/
def CoreFault.code : CoreFault → BitVec 3
  | .outOfBounds _ => 1#3
  | .stackUnderflow => 2#3
  | .unrecognizedOpcode _ => 3#3
  | .stackOverflow => 4#3

/-- `fault_info` of R160 (D23). -/
def CoreFault.info : CoreFault → Word
  | .outOfBounds a => BitVec.ofNat 16 a
  | .stackUnderflow => 0#16
  | .unrecognizedOpcode op => op
  | .stackOverflow => 0#16

/-- Fault entry of R166: everything as it was when the tick began but for the latch and the fault record. There is no handler
and no return: only reset clears the latch (R167). -/
def State.enterFault (s : State) (f : CoreFault) : State :=
  { s with halted := true, faultCode := f.code, faultInfo := f.info }

/-- `raise f` of R8 as the outcome of an instruction or a tick that began in `s`: the next state is the fault entry (log entry
5). -/
def raise (f : CoreFault) (s : State) : Host.Outcome State Fault Refusal := .next (s.enterFault f)

/-- The check of a run of `len` addresses from `base` (R43 to R45, R55): OutOfBounds when the run reaches 4096, with the lowest
out-of-range address. No address is wrapped (R57). -/
def checkRun (base len : Nat) : Option CoreFault :=
  if 1 ≤ len ∧ Config.memSize ≤ base + len - 1 then some (.outOfBounds (max base Config.memSize)) else none

/-- The check phase before a commit that touches a run (R8, R55): the fault taken from `s`, else the committed state `t`. -/
def guardRun (base len : Nat) (s t : State) : Host.Outcome State Fault Refusal :=
  match checkRun base len with
  | some f => raise f s
  | none => .next t

/-! ## The parts of the tick (R27) -/

/-- The instruction fetch `MemRead(PC, 2)` of R45. -/
def fetch (s : State) : Except CoreFault Word :=
  match checkRun s.pc.toNat 2 with
  | some f => .error f
  | none => .ok (wordOfBytes (s.byte s.pc.toNat) (s.byte (s.pc.toNat + 1)))

/-- Fetch and decode, steps 1 and 2 of R27: the instruction at PC, or the first fault met (R165). -/
def fetchDecode (s : State) : Except CoreFault Instr :=
  match fetch s with
  | .error f => .error f
  | .ok op =>
    match decode op with
    | .ok i => .ok i
    | .error _ => .error (.unrecognizedOpcode op)

/-- A tick is ignored while `run = 0` or `halted = 1` (R27, R167, R176). -/
def State.gated (s : State) : Bool := !s.run || s.halted

/-- One countdown of R171: down by 1 when non-zero, floor 0. -/
def countDown (t : Byte) : Byte := if t = 0#8 then 0#8 else t - 1#8

/-- Step 4 of R27: both timers count down, each on its own (R171). -/
def State.tickTimers (s : State) : State := (s.setDt (countDown s.dt)).setSt (countDown s.st)

/-- The instruction samples the input `keys` (R94, R95). -/
def samplesKeys : Instr → Bool
  | .skp _ => true
  | .sknp _ => true
  | _ => false

/-- The instruction samples the input `rnd` (R103). -/
def samplesRnd : Instr → Bool
  | .rnd _ _ => true
  | _ => false

/-- The host's key-state after a sample: a free value (log entry 1). -/
def State.freshKeys (s : State) : State := { s with keys := Config.keysInput s.samples, samples := s.samples + 1 }

/-- The host's random byte after a sample: a free value (log entry 1). -/
def State.freshRnd (s : State) : State := { s with rnd := Config.rndInput s.samples, samples := s.samples + 1 }

/-- What the host's inputs are for the next sample (R21, R103): an input that the instruction sampled is free again. -/
def State.refreshInputs (s : State) (i : Instr) : State :=
  if samplesKeys i then s.freshKeys else if samplesRnd i then s.freshRnd else s

/-- The end of a tick whose instruction left the state `t` (R27 steps 4 and 5): a faulting tick ends as the fault left it
(R166), else the timers count down. -/
def finishTick (i : Instr) (t : State) : State :=
  if t.halted then t else t.tickTimers.refreshInputs i

/-- The end of a tick over the outcome of its instruction. -/
def endTick (i : Instr) : Host.Outcome State Fault Refusal → Host.Outcome State Fault Refusal
  | .next t => .next (finishTick i t)
  | .fault r => .fault r
  | .refused r => .refused r

/-- Stores a list of bytes where the next fetch reads them, on a machine that will fetch: started, not halted, and at an
address a fetch can succeed at (R45), which is PC unless PC is above 0xFFE (log entry 8). -/
def State.placeAtPc (s : State) (bytes : List Byte) : State :=
  let p : Word := if s.pc.toNat ≤ 0xFFE then s.pc else 0x200#16
  ({ s with pc := p, run := true, halted := false } : State).storeRun p.toNat bytes

end Sys2Proof.Machine
end

