-- ==== Sys2Proof/Machine/Operands.lean ====
section
/-! DEFINITION. Every operand form of the spec: immediates are zero-extended (R63), registers are named by their nibble, data
is addressed from I (R148), sprites by wrapped coordinates (R131), keys by the X nibble (R94). -/

namespace Sys2Proof.Machine

/-- `zext_16` of a byte (R7, R63). -/
def zextByte (b : Byte) : Word := b.setWidth 16

/-- `zext_16` of a 12-bit address (R7, R63). -/
def zextAddr (a : Addr) : Word := a.setWidth 16

/-- The base address of every data access: I, as a natural number (R148, R57). -/
def State.base (s : State) : Nat := s.idx.toNat

/-- The target of JPV: `zext_16(NN) + zext_16(V[X])` (R83). -/
def jpvTarget (nn a : Byte) : Word := zextByte nn + zextByte a

/-- `(I + V[X]) mod 4096` (R143, R13). -/
def addIndex (i : Addr) (a : Byte) : Addr := BitVec.ofNat 12 (i.toNat + a.toNat)

/-- `V[X] * 5`, the base of a glyph (R144); the whole byte is multiplied. -/
def glyphBase (a : Byte) : Addr := BitVec.ofNat 12 (a.toNat * Config.glyphLen)

/-- The three decimal digits of a byte, hundreds first, one byte each (R145). -/
def bcdDigits (a : Byte) : List Byte :=
  [BitVec.ofNat 8 (a.toNat / 100), BitVec.ofNat 8 (a.toNat / 10 % 10), BitVec.ofNat 8 (a.toNat % 10)]

/-- `V[0..X]` in order, the bytes STM stores (R146). -/
def State.regsUpTo (s : State) (x : Nibble) : List Byte :=
  (List.range (x.toNat + 1)).map fun k => s.reg (BitVec.ofNat 4 k)

/-- The column a sprite starts at: the register modulo 64 (R131). -/
def spriteX (a : Byte) : Nat := a.toNat % 64

/-- The row a sprite starts at: the register modulo 32 (R131). -/
def spriteY (b : Byte) : Nat := b.toNat % 32

/-- `key[k]`: key k is pressed (R21). -/
def State.keyPressed (s : State) (k : Nibble) : Bool := s.keys.getLsbD k.toNat

end Sys2Proof.Machine
end

