-- ==== Sys2Proof/Machine/Flags.lean ====
section
/-! DEFINITION. Every flag computation of the spec. VF is the one flag; it is written with 0 or 1, never accumulated (R12). -/

namespace Sys2Proof.Machine

/-- VF is register 15 (R12). -/
def regF : Nibble := 0xF#4

/-- A flag as the byte VF holds (R12). -/
def flagByte (c : Bool) : Byte := if c then 1#8 else 0#8

/-- ADD: 1 when the sum exceeds 255 (R115). -/
def carryFlag (a b : Byte) : Bool := decide (255 < a.toNat + b.toNat)

/-- SUB: 1 when Vx is strictly greater than Vy (R116). -/
def greaterFlag (a b : Byte) : Bool := decide (b.toNat < a.toNat)

/-- SUBN: 0 when Vy is strictly less than Vx, else 1 (R118). -/
def noBorrowFlag (a b : Byte) : Bool := !decide (b.toNat < a.toNat)

/-- SHR: the bit shifted out of Vy (R117). -/
def lowBitFlag (b : Byte) : Bool := b.getLsbD 0

/-- SHL: bit 7 of the old Vx (R119, C5). -/
def highBitFlag (a : Byte) : Bool := a.getLsbD 7

/-- The commit of a flag-defining operation: VF first, then V[X] (R110), so that the result stays when X = F (D2). -/
def State.setFlagThenReg (s : State) (c : Bool) (x : Nibble) (r : Byte) : State :=
  (s.setReg regF (flagByte c)).setReg x r

end Sys2Proof.Machine
end

