-- ==== Sys2Proof/Machine/Alu.lean ====
section
/-! DEFINITION. Register-to-register arithmetic and logic: MOV, OR, AND, XOR, ADD, SUB, SHR, SUBN, SHL (spec/43_alu.md). Both
sources are read before anything is written (R110, D2). Byte arithmetic is modulo 256 (R120). -/

namespace Sys2Proof.Machine

/-- MOV, R111: V[X] := V[Y]. -/
def execMov (x y : Nibble) (s : State) : Host.Outcome State Fault Refusal :=
  .next (s.setReg x (s.reg y)).advance

/-- OR, R112: no flag. -/
def execOr (x y : Nibble) (s : State) : Host.Outcome State Fault Refusal :=
  .next (s.setReg x (s.reg x ||| s.reg y)).advance

/-- AND, R113: no flag. -/
def execAnd (x y : Nibble) (s : State) : Host.Outcome State Fault Refusal :=
  .next (s.setReg x (s.reg x &&& s.reg y)).advance

/-- XOR, R114: no flag. -/
def execXor (x y : Nibble) (s : State) : Host.Outcome State Fault Refusal :=
  .next (s.setReg x (s.reg x ^^^ s.reg y)).advance

/-- ADD, R115: VF := carry out, then V[X] := sum mod 256. -/
def execAdd (x y : Nibble) (s : State) : Host.Outcome State Fault Refusal :=
  .next (s.setFlagThenReg (carryFlag (s.reg x) (s.reg y)) x (s.reg x + s.reg y)).advance

/-- SUB, R116: VF := Vx > Vy, then V[X] := (Vx - Vy) mod 256. -/
def execSub (x y : Nibble) (s : State) : Host.Outcome State Fault Refusal :=
  .next (s.setFlagThenReg (greaterFlag (s.reg x) (s.reg y)) x (s.reg x - s.reg y)).advance

/-- SHR, R117: flag and value both from Vy (D27). -/
def execShr (x y : Nibble) (s : State) : Host.Outcome State Fault Refusal :=
  .next (s.setFlagThenReg (lowBitFlag (s.reg y)) x (s.reg y >>> 1)).advance

/-- SUBN, R118: VF := not (Vy < Vx), then V[X] := (Vy - Vx) mod 256. -/
def execSubn (x y : Nibble) (s : State) : Host.Outcome State Fault Refusal :=
  .next (s.setFlagThenReg (noBorrowFlag (s.reg x) (s.reg y)) x (s.reg y - s.reg x)).advance

/-- SHL, R119: the value from Vy, the flag from the old Vx (C5, D27). -/
def execShl (x y : Nibble) (s : State) : Host.Outcome State Fault Refusal :=
  .next (s.setFlagThenReg (highBitFlag (s.reg x)) x (s.reg y <<< 1)).advance

end Sys2Proof.Machine
end

