-- ==== Sys2Proof/Machine/Display.lean ====
section
/-! DEFINITION. Display: CLS and DRW (spec/44_display.md). Each that completes raises one flush (R132). -/

namespace Sys2Proof.Machine

/-- One sprite bit at one place (R131): clipped off the screen, else a collision is noted when the bit and the cell are both 1,
and the cell becomes cell XOR bit. The accumulator is the framebuffer and the collision flag. -/
def plot (bit : Bool) (px py : Nat) (acc : FrameBuffer × Bool) : FrameBuffer × Bool :=
  if h : px < 64 ∧ py < 32 then
    let old := FrameBuffer.cell acc.1 ⟨px, h.1⟩ ⟨py, h.2⟩
    (FrameBuffer.setCell acc.1 ⟨px, h.1⟩ ⟨py, h.2⟩ (old ^^ bit), acc.2 || (bit && old))
  else acc

/-- The bits k, k + 1, ... of one sprite row, bit 7 - k of the byte at column `px` (R131: most significant first); the last
argument counts the bits left. -/
def drawBits (row : Byte) (py : Nat) : Nat → Nat → Nat → FrameBuffer × Bool → FrameBuffer × Bool
  | 0, _, _, acc => acc
  | left + 1, k, px, acc => drawBits row py left (k + 1) (px + 1) (plot (row.getLsbD (7 - k)) px py acc)

/-- The rows of a sprite from row `py` down, each of 8 bits from column `x0` (R131: top row first). -/
def drawRows (x0 : Nat) : List Byte → Nat → FrameBuffer × Bool → FrameBuffer × Bool
  | [], _, acc => acc
  | row :: rows, py, acc => drawRows x0 rows (py + 1) (drawBits row py 8 0 x0 acc)

/-- CLS, R130: every cell off, one flush. -/
def execCls (s : State) : Host.Outcome State Fault Refusal :=
  .next (s.setFb FrameBuffer.clear).flush.advance

/-- DRW, R131: all N rows are read and checked first (D18); then the sprite is drawn from the wrapped origin, clipped at the
edges; VF := collision; one flush. -/
def execDrw (x y n : Nibble) (s : State) : Host.Outcome State Fault Refusal :=
  let rows := s.readRun s.base n.toNat
  let drawn := drawRows (spriteX (s.reg x)) rows (spriteY (s.reg y)) (s.fb, false)
  guardRun s.base n.toNat s (((s.setFb drawn.1).setReg regF (flagByte drawn.2)).flush.advance)

end Sys2Proof.Machine
end

