-- ==== Sys2Proof/Machine/Flow.lean ====
section
/-! DEFINITION. Control transfer: RET, JP, CALL, JPV (spec/40_flow.md). None advances PC after assigning it (R84). -/

namespace Sys2Proof.Machine

/-- RET, R80: PC := the newest entry, taken off the stack; StackUnderflow on an empty stack. -/
def execRet (s : State) : Host.Outcome State Fault Refusal :=
  match s.stack with
  | [] => raise .stackUnderflow s
  | t :: _ => .next (s.dropTop.setPc t)

/-- JP, R81: PC := NNN. -/
def execJp (nnn : Addr) (s : State) : Host.Outcome State Fault Refusal :=
  .next (s.setPc (zextAddr nnn))

/-- CALL, R82: push the address of the next instruction (C2), PC := NNN; StackOverflow when a finite stack is full. -/
def execCall (nnn : Addr) (s : State) : Host.Outcome State Fault Refusal :=
  if s.stackFull then raise .stackOverflow s
  else .next ((s.push (s.pc + 2#16)).setPc (zextAddr nnn))

/-- JPV, R83: PC := NN + V[X] (C4, D9). -/
def execJpv (x : Nibble) (nn : Byte) (s : State) : Host.Outcome State Fault Refusal :=
  .next (s.setPc (jpvTarget nn (s.reg x)))

end Sys2Proof.Machine
end

