-- ==== Sys2Proof/Machine/Immediate.lean ====
section
/-! DEFINITION. Immediate loads: LDB, ADDB, LDI, RND (spec/42_immediate.md). None can fault at execute. -/

namespace Sys2Proof.Machine

/-- LDB, R100: V[X] := NN. -/
def execLdb (x : Nibble) (nn : Byte) (s : State) : Host.Outcome State Fault Refusal :=
  .next (s.setReg x nn).advance

/-- ADDB, R101: V[X] := (V[X] + NN) mod 256, no flag. -/
def execAddb (x : Nibble) (nn : Byte) (s : State) : Host.Outcome State Fault Refusal :=
  .next (s.setReg x (s.reg x + nn)).advance

/-- LDI, R102: I := NNN. -/
def execLdi (nnn : Addr) (s : State) : Host.Outcome State Fault Refusal :=
  .next (s.setIdx nnn).advance

/-- RND, R103: V[X] := rnd AND NN, `rnd` sampled once; the tick frees the input afterwards (`State.refreshInputs`). -/
def execRnd (x : Nibble) (nn : Byte) (s : State) : Host.Outcome State Fault Refusal :=
  .next (s.setReg x (s.rnd &&& nn)).advance

end Sys2Proof.Machine
end

