-- ==== Sys2Proof/Machine/Skip.lean ====
section
/-! DEFINITION. Conditional skips: SEB, SNEB, SE, SNE, SKP, SKNP (spec/41_skip.md). The skipped bytes are not looked at
(R96). -/

namespace Sys2Proof.Machine

/-- R96: PC + 4 when the condition holds, else PC + 2; nothing else changes. -/
def skipIf (c : Bool) (s : State) : Host.Outcome State Fault Refusal :=
  .next (if c then s.skip else s.advance)

/-- SEB, R90. -/
def execSeb (x : Nibble) (nn : Byte) (s : State) : Host.Outcome State Fault Refusal :=
  skipIf (s.reg x == nn) s

/-- SNEB, R91. -/
def execSneb (x : Nibble) (nn : Byte) (s : State) : Host.Outcome State Fault Refusal :=
  skipIf (s.reg x != nn) s

/-- SE, R92. -/
def execSe (x y : Nibble) (s : State) : Host.Outcome State Fault Refusal :=
  skipIf (s.reg x == s.reg y) s

/-- SNE, R93. -/
def execSne (x y : Nibble) (s : State) : Host.Outcome State Fault Refusal :=
  skipIf (s.reg x != s.reg y) s

/-- SKP, R94: the key code is the X nibble, no register is read (D8). -/
def execSkp (x : Nibble) (s : State) : Host.Outcome State Fault Refusal :=
  skipIf (s.keyPressed x) s

/-- SKNP, R95: the key code is the X nibble (D8). -/
def execSknp (x : Nibble) (s : State) : Host.Outcome State Fault Refusal :=
  skipIf (!s.keyPressed x) s

end Sys2Proof.Machine
end

