-- ==== Sys2Proof/Machine/TimerIndexMemory.lean ====
section
/-! DEFINITION. Timers, index register and memory transfer: LDDT, STDT, STST, ADDI, FONT, BCD, STM, LDM
(spec/45_timer_index_memory.md). I is the same after BCD, STM and LDM as before (R148). -/

namespace Sys2Proof.Machine

/-- LDDT, R140: V[X] := DT, before this tick's decrement. -/
def execLddt (x : Nibble) (s : State) : Host.Outcome State Fault Refusal :=
  .next (s.setReg x s.dt).advance

/-- STDT, R141: DT := V[X]; the tick's decrement follows. -/
def execStdt (x : Nibble) (s : State) : Host.Outcome State Fault Refusal :=
  .next (s.setDt (s.reg x)).advance

/-- STST, R142: ST := V[X]; the tick's decrement follows. -/
def execStst (x : Nibble) (s : State) : Host.Outcome State Fault Refusal :=
  .next (s.setSt (s.reg x)).advance

/-- ADDI, R143: I := (I + V[X]) mod 4096, no flag. -/
def execAddi (x : Nibble) (s : State) : Host.Outcome State Fault Refusal :=
  .next (s.setIdx (addIndex s.idx (s.reg x))).advance

/-- FONT, R144: I := V[X] * 5. -/
def execFont (x : Nibble) (s : State) : Host.Outcome State Fault Refusal :=
  .next (s.setIdx (glyphBase (s.reg x))).advance

/-- BCD, R145: the decimal digits of V[X] to MEM[I..I+2]. -/
def execBcd (x : Nibble) (s : State) : Host.Outcome State Fault Refusal :=
  guardRun s.base 3 s (s.storeRun s.base (bcdDigits (s.reg x))).advance

/-- STM, R146: V[0..X] to MEM[I..I+X]. -/
def execStm (x : Nibble) (s : State) : Host.Outcome State Fault Refusal :=
  guardRun s.base (x.toNat + 1) s (s.storeRun s.base (s.regsUpTo x)).advance

/-- LDM, R147: MEM[I..I+X] to V[0..X]. -/
def execLdm (x : Nibble) (s : State) : Host.Outcome State Fault Refusal :=
  guardRun s.base (x.toNat + 1) s (s.loadRegs s.base x).advance

end Sys2Proof.Machine
end

