-- ==== Sys2Proof/Machine/Step.lean ====
section
/-! DEFINITION. One tick of the machine (R27), and placing an instruction where the next tick fetches it. -/

namespace Sys2Proof.Machine

/-- One tick, R27: ignored while `run = 0` or `halted = 1`; else fetch, decode, execute, timers. A fault at fetch or decode is
entered from the state the tick began in (R165, R166). -/
def step (s : State) : Host.Outcome State Fault Refusal :=
  if s.gated then .next s
  else
    match fetchDecode s with
    | .error f => raise f s
    | .ok i => endTick i (exec i s)

/-- The state with the instruction whose bits are `w` (numbered as spec/opcode_table.json numbers them) stored where the next
tick fetches, on a started machine (log entry 8). -/
def State.withFetchWord (s : State) (nbits w : Nat) : State := s.placeAtPc (tableBytes nbits w)

end Sys2Proof.Machine
end

