-- ==== Sys2Proof/Machine/HostOps.lean ====
section
/-! DEFINITION. The host's operations on the CORE (R25): reset, load_rom, start, stop, and what it puts on the inputs. They fall
between ticks (R26). `HostEvent` and `applyEvents` are a run with the host in it. -/

namespace Sys2Proof.Machine

/-- The operation `reset()` on any state (R190): every piece of state at its value of R29; the inputs are the host's (R192),
the parameters stay, no flush is raised (D20). -/
def State.hostReset (s : State) : State :=
  { (State.resetWith s.params s.keys s.rnd s.run) with flushes := s.flushes, samples := s.samples }

/-- The operation `load_rom(bytes)` (R195): the new state and `load_error`. A ROM that does not fit is refused whole and
changes nothing, the fault record included (R179, D15). -/
def State.loadRom (s : State) (bytes : List Byte) : State × Bool :=
  if Config.memSize < Config.progBase + bytes.length then (s, true)
  else (s.storeRun Config.progBase bytes, false)

/-- `start()`: run := 1 (R196). It does not clear `halted`. -/
def State.start (s : State) : State := { s with run := true }

/-- `stop()`: run := 0 (R196); nothing is lost (R176). -/
def State.stop (s : State) : State := { s with run := false }

/-- The host writes the key-state (R21). -/
def State.setKeys (s : State) (k : Word) : State := { s with keys := k }

/-- The host's random source shows a byte (R25). -/
def State.setRnd (s : State) (b : Byte) : State := { s with rnd := b }

/-- Everything that can happen to the CORE from outside (R25), each atomic (R26). -/
inductive HostEvent where
  /-- One tick of the scheduler (R27). -/
  | tick
  /-- `reset()` (R190). -/
  | reset
  /-- `load_rom(bytes)` (R195). -/
  | loadRom (bytes : List Byte)
  /-- `start()` (R196). -/
  | start
  /-- `stop()` (R196). -/
  | stop
  /-- A write of the key-state (R21). -/
  | keys (k : Word)
  /-- A new random byte (R25). -/
  | rnd (b : Byte)
  deriving DecidableEq, Repr

/-- The CORE after one event. -/
def applyEvent (e : HostEvent) (s : State) : Host.Outcome State Fault Refusal :=
  match e with
  | .tick => step s
  | .reset => .next s.hostReset
  | .loadRom bytes => .next (s.loadRom bytes).1
  | .start => .next s.start
  | .stop => .next s.stop
  | .keys k => .next (s.setKeys k)
  | .rnd b => .next (s.setRnd b)

/-- The CORE after a sequence of events, in order (R26, R204). -/
def applyEvents : List HostEvent → State → Host.Outcome State Fault Refusal
  | [], s => .next s
  | e :: es, s =>
    match applyEvent e s with
    | .next t => applyEvents es t
    | .fault r => .fault r
    | .refused r => .refused r

end Sys2Proof.Machine
end

