-- ==== Sys2Proof/Safety.lean ====
section
/-! DEFINITION. The terms claims are stated in: what an instruction may change (the table of R31), when an instruction faults
(R180), the invariants of the machine, and what a running, a safe and a finished machine are. -/

namespace Sys2Proof.Machine

/-! ## Frames -/

/-- The parts of the state that may change. PC may always change; the fault record, the inputs and the parameters are no
part. -/
structure MayChange where
  /-- Which general registers. -/
  reg : Nibble → Prop := fun _ => False
  /-- The index register. -/
  idx : Prop := False
  /-- The call stack. -/
  stack : Prop := False
  /-- The framebuffer, and with it the count of `flush` events. -/
  display : Prop := False
  /-- The delay timer. -/
  dt : Prop := False
  /-- The sound timer. -/
  st : Prop := False
  /-- Which bytes of memory. -/
  mem : Nat → Prop := fun _ => False

/-- The fault record is unchanged (R20). -/
def SameFaultRecord (s t : State) : Prop :=
  t.halted = s.halted ∧ t.faultCode = s.faultCode ∧ t.faultInfo = s.faultInfo

/-- The inputs, the sample counter and the parameters are unchanged (R25, R6). -/
def SameInputs (s t : State) : Prop :=
  t.keys = s.keys ∧ t.rnd = s.rnd ∧ t.run = s.run ∧ t.samples = s.samples ∧ t.params = s.params

/-- From `s` to `t` nothing changed but PC and what `c` lists; memory is compared byte by byte, the framebuffer cell by
cell. -/
def FrameBut (c : MayChange) (s t : State) : Prop :=
  (∀ z, ¬c.reg z → t.reg z = s.reg z) ∧
  (¬c.idx → t.idx = s.idx) ∧
  (¬c.stack → t.stack = s.stack) ∧
  (¬c.display → (∀ x y, t.pixel x y = s.pixel x y) ∧ t.flushes = s.flushes) ∧
  (¬c.dt → t.dt = s.dt) ∧
  (¬c.st → t.st = s.st) ∧
  (∀ a, ¬c.mem a → t.byte a = s.byte a) ∧
  SameFaultRecord s t ∧ SameInputs s t

/-- An address inside the run of `len` bytes from I (R49). -/
def inRun (s : State) (len : Nat) (a : Nat) : Prop := s.base ≤ a ∧ a < s.base + len

/-- The column "writes" of the table of R31. -/
def table31 (i : Instr) (s : State) : MayChange :=
  match i with
  | .cls => { display := True }
  | .ret | .call _ => { stack := True }
  | .jp _ | .jpv _ _ | .seb _ _ | .sneb _ _ | .se _ _ | .sne _ _ | .skp _ | .sknp _ => {}
  | .ldb x _ | .addb x _ | .mov x _ | .or x _ | .and x _ | .xor x _ | .rnd x _ | .lddt x => { reg := fun z => z = x }
  | .add x _ | .sub x _ | .shr x _ | .subn x _ | .shl x _ => { reg := fun z => z = x ∨ z = regF }
  | .ldi _ | .addi _ | .font _ => { idx := True }
  | .drw _ _ _ => { reg := fun z => z = regF, display := True }
  | .stdt _ => { dt := True }
  | .stst _ => { st := True }
  | .bcd _ => { mem := inRun s 3 }
  | .stm x => { mem := inRun s (x.toNat + 1) }
  | .ldm x => { reg := fun z => z.toNat ≤ x.toNat }

/-- When an instruction faults at execute (R180): every condition of R80, R82, R131, R145, R146, R147. -/
def faultsAtExecute (i : Instr) (s : State) : Prop :=
  match i with
  | .ret => s.stack = []
  | .call _ => s.stackFull = true
  | .drw _ _ n => n ≠ 0#4 ∧ 4096 < s.base + n.toNat
  | .bcd _ => 4096 < s.base + 3
  | .stm x | .ldm x => 4096 < s.base + (x.toNat + 1)
  | _ => False

/-- The sprite bit that R131 puts on the cell (px, py): row py - y0 of the sprite at MEM[I + row], bit 7 - (px - x0) of it, where
(x0, y0) is the origin wrapped modulo 64 and 32; false where no bit falls. -/
def drwBit (s : State) (x y n : Nibble) (px : Fin 64) (py : Fin 32) : Bool :=
  decide ((s.reg x).toNat % 64 ≤ px.val ∧ px.val < (s.reg x).toNat % 64 + 8 ∧
      (s.reg y).toNat % 32 ≤ py.val ∧ py.val < (s.reg y).toNat % 32 + n.toNat) &&
    (s.byte (s.idx.toNat + (py.val - (s.reg y).toNat % 32))).getLsbD (7 - (px.val - (s.reg x).toNat % 64))

/-- The encoding clause of an instruction rule: its format, its word, that the word decodes to it, and its match and mask
(R62, R64). -/
def Encodes (i : Instr) (f : Format) (pattern mask word : Word) : Prop :=
  i.format = f ∧ encode i = word ∧ decode word = .ok i ∧ word &&& mask = pattern

/-- `base OR (X << 8) OR NN` (R62 format XB, and XF with a fixed byte). -/
def wordXB (base : Word) (x : Nibble) (nn : Byte) : Word := base ||| (x.setWidth 16 <<< 8) ||| nn.setWidth 16

/-- `base OR (X << 8) OR (Y << 4)` (R62 format XY). -/
def wordXY (base : Word) (x y : Nibble) : Word := base ||| (x.setWidth 16 <<< 8) ||| (y.setWidth 16 <<< 4)

/-- `base OR (X << 8)` (R62 format XF). -/
def wordX (base : Word) (x : Nibble) : Word := base ||| (x.setWidth 16 <<< 8)

/-- `base OR NNN` (R62 format A). -/
def wordA (base : Word) (nnn : Addr) : Word := base ||| nnn.setWidth 16

/-! ## Invariants -/

/-- Memory is in its canonical form, every listed address inside `MEM` (R40). -/
def State.MemOk (s : State) : Prop := Memory.wf s.params.font s.mem = true

/-- R28: PC is at most 0x1002 and every stack entry at most 0x1000. -/
def State.PcOk (s : State) : Prop := s.pc.toNat ≤ 0x1002 ∧ ∀ e ∈ s.stack, e.toNat ≤ 0x1000

/-- R10, R17: the stack never holds more than STACK_DEPTH entries. -/
def State.StackOk (s : State) : Prop := ∀ d, s.params.stackDepth = some d → s.stack.length ≤ d

/-- R20, R160: no fault is recorded on a machine that is not halted; a halted one records one of the four faults with the
`fault_info` of its row, and StackOverflow only at a finite depth. -/
def State.RecordOk (s : State) : Prop :=
  (s.halted = false → s.faultCode = 0#3 ∧ s.faultInfo = 0#16) ∧
  (s.halted = true →
    (s.faultCode = 1#3 ∧ 0x1000 ≤ s.faultInfo.toNat ∧ s.faultInfo.toNat ≤ 0x1002) ∨
    (s.faultCode = 2#3 ∧ s.faultInfo = 0#16) ∨
    (s.faultCode = 3#3 ∧ recognized s.faultInfo = false) ∨
    (s.faultCode = 4#3 ∧ s.faultInfo = 0#16 ∧ s.params.stackDepth ≠ none))

/-- All four invariants. -/
def State.Inv (s : State) : Prop := s.MemOk ∧ s.PcOk ∧ s.StackOk ∧ s.RecordOk

/-! ## Runs -/

/-- A machine whose next tick acts (R27). -/
def State.Running (s : State) : Prop := s.run = true ∧ s.halted = false

/-- A run is safe as long as no fault has halted the machine: a faulted state is never a successful end (R203). -/
def State.Safe (s : State) : Prop := s.halted = false

/-- The convention of R203 (D26): PC holds the address of a JP to that same address. -/
def State.Finished (s : State) : Prop :=
  s.Safe ∧ ∃ nnn, fetchDecode s = .ok (.jp nnn) ∧ zextAddr nnn = s.pc

end Sys2Proof.Machine
end

