-- ==== Sys2Proof/Certificates/Slice0/Obligations.lean ====
section
/-! DEFINITION. The statements for the provers. Each docstring names the rules of spec/ the statement is taken from, and what in
it is the spec's own decision or the model's choice. -/

open Sys2Proof Sys2Proof.Machine

/-! ## Encoding (spec/30_encoding.md) -/

/-- R70(c): encoding an instruction and decoding the word gives the instruction back, all operands at every value; on bytes as
well, whatever follows. Rests on D7 and D9 for what is an instruction. -/
def Obligations.DecodeOfEncodeIsTheInstruction : Prop :=
  ∀ (i : Instr) (rest : List Byte), i.wellFormed = true →
    decode (encode i) = .ok i ∧ decodeBytes (encodeBytes i ++ rest) = .ok (i, rest)

/-- Every instruction has one word: a word that decodes to an instruction is the word that instruction encodes to, and the
instruction is well formed (R61, R62, R64). -/
def Obligations.EncodeOfDecodedWordIsTheWord : Prop :=
  ∀ (op : Word) (i : Instr), decode op = .ok i → encode i = op ∧ i.wellFormed = true

/-- R64: an instruction is selected when (op AND mask) = match; a word no row selects is refused under its own name; and no word
is selected by two rows (R70(a)). The mnemonics are the spec's own (D17). -/
def Obligations.DecodeFollowsMatchAndMask : Prop :=
  (∀ (op : Word) (i : Instr), decode op = .ok i → ∃ r ∈ opcodeTable, r.selects op = true ∧ r.mnemonic = i.mnemonic) ∧
  (∀ (op : Word) (e : DecodeError), decode op = .error e → e = .unrecognized op ∧ recognized op = false) ∧
  (∀ (op : Word), ∀ r ∈ opcodeTable, ∀ q ∈ opcodeTable, r.selects op = true → q.selects op = true → r = q)

/-- R66 with R65 (C7, D7): the unrecognized words are exactly those of the table of R66, group by group. -/
def Obligations.UnrecognizedWordsAreThoseListed : Prop :=
  ∀ op : Word, decode op = .error (.unrecognized op) ↔
    (fieldG op = 0x0#4 ∧ op ≠ 0x00E0#16 ∧ op ≠ 0x00EE#16) ∨
    (fieldG op = 0x5#4 ∧ fieldN op ≠ 0#4) ∨
    (fieldG op = 0x8#4 ∧ fieldN op ∈ [0x8#4, 0x9#4, 0xA#4, 0xB#4, 0xC#4, 0xD#4, 0xF#4]) ∨
    (fieldG op = 0x9#4 ∧ fieldN op ≠ 0#4) ∨
    (fieldG op = 0xE#4 ∧ fieldNN op ∉ [0x9E#8, 0xA1#8]) ∨
    (fieldG op = 0xF#4 ∧ fieldNN op ∉ [0x07#8, 0x15#8, 0x18#8, 0x1E#8, 0x29#8, 0x33#8, 0x55#8, 0x65#8])

/-- Words written out in the examples of spec/40 to 45 and spec/95 decode to the instructions the text gives them. -/
def Obligations.SampleWordsDecode : Prop :=
  decode 0x00EE#16 = .ok .ret ∧ decode 0x1ABC#16 = .ok (.jp 0xABC#12) ∧ decode 0x3A05#16 = .ok (.seb 0xA#4 0x05#8) ∧
  decode 0xC30F#16 = .ok (.rnd 0x3#4 0x0F#8) ∧ decode 0x812E#16 = .ok (.shl 0x1#4 0x2#4) ∧
  decode 0xD012#16 = .ok (.drw 0x0#4 0x1#4 0x2#4) ∧ decode 0xE5A1#16 = .ok (.sknp 0x5#4) ∧
  decode 0xF533#16 = .ok (.bcd 0x5#4) ∧ decode 0x5121#16 = .error (.unrecognized 0x5121#16)

/-- R68 (D17): the encoding of an assembler line is its row's pattern with each operand in its field; the line of an instruction
gives that instruction's word. -/
def Obligations.AssemblerLineGivesTheWord : Prop :=
  ∀ i : Instr, i.asm.word = some (encode i)

/-! ## The tick (spec/10_state.md R27, spec/60_exceptions.md) -/

/-- R27, R45, R60: on a started machine that is not halted, when the two bytes at PC decode to a well-formed instruction, the
tick is exec of it with the end of the tick around it. The end of the tick: a state the instruction left halted is the tick's
state (R166, D14); otherwise both timers are one lower, floor 0 (R171), and nothing else changes but the inputs the
instruction sampled and the sample counter, which are the model's own (log entry 1). -/
def Obligations.StepRunsTheDecodedInstruction : Prop :=
  ∀ (s : State) (i : Instr), s.Running → s.pc.toNat ≤ 0xFFE → i.wellFormed = true →
    decodeBytes [s.byte s.pc.toNat, s.byte (s.pc.toNat + 1)] = .ok (i, []) →
    step s = endTick i (exec i s) ∧
    ∀ t, exec i s = .next t → ∃ u, step s = .next u ∧
      (t.halted = true → u = t) ∧
      (t.halted = false → u.dt.toNat = t.dt.toNat - 1 ∧ u.st.toNat = t.st.toNat - 1) ∧
      (samplesKeys i = false → u.keys = t.keys) ∧ (samplesRnd i = false → u.rnd = t.rnd) ∧
      u.mem = t.mem ∧ u.v = t.v ∧ u.idx = t.idx ∧ u.pc = t.pc ∧ u.stack = t.stack ∧ u.fb = t.fb ∧
      u.halted = t.halted ∧ u.faultCode = t.faultCode ∧ u.faultInfo = t.faultInfo ∧ u.run = t.run ∧
      u.params = t.params ∧ u.flushes = t.flushes

/-- R45, R161(a): a tick at PC above 0xFFE faults with OutOfBounds and reports 0x1000 at PC = 0xFFF, PC above that; the fetch
does not wrap. The reported address is D23, the fault record D12 and D13. -/
def Obligations.FetchBeyondMemoryFaults : Prop :=
  ∀ s : State, s.Running → 0xFFE < s.pc.toNat →
    step s = .next { s with halted := true, faultCode := 1#3,
                            faultInfo := if s.pc.toNat = 0xFFF then 0x1000#16 else s.pc }

/-- R163, R66: a tick that fetches a word no row of R64 selects faults with UnrecognizedOpcode and reports the word; nothing else
changes, the timers included. The fault record is D12 and D13, the timers D14. -/
def Obligations.UnrecognizedWordFaults : Prop :=
  ∀ s : State, s.Running → s.pc.toNat ≤ 0xFFE →
    recognized (wordOfBytes (s.byte s.pc.toNat) (s.byte (s.pc.toNat + 1))) = false →
    step s = .next { s with halted := true, faultCode := 3#3,
                            faultInfo := wordOfBytes (s.byte s.pc.toNat) (s.byte (s.pc.toNat + 1)) }

/-- R27, R167, R176 (D13): a tick while `run = 0` or `halted = 1` changes nothing at all. -/
def Obligations.IgnoredTickChangesNothing : Prop :=
  ∀ s : State, s.run = false ∨ s.halted = true → step s = .next s

/-- The machine never stops without a next state: every fault of the spec has its entry (R166), every instruction its effect
(log entry 5). -/
def Obligations.EveryTickHasANextState : Prop :=
  ∀ s : State, ∃ t : State, step s = .next t ∧ t.params = s.params ∧ t.run = s.run

/-- R166 with R20: a tick that faults changes nothing but the latch and the fault record (D13, D14), and records one of the
codes of R160 (D12). -/
def Obligations.FaultingTickChangesOnlyTheFaultRecord : Prop :=
  ∀ s t : State, s.halted = false → step s = .next t → t.halted = true →
    t = { s with halted := true, faultCode := t.faultCode, faultInfo := t.faultInfo } ∧
    1 ≤ t.faultCode.toNat ∧ t.faultCode.toNat ≤ 4

/-- R180 with R80, R82, R131, R145, R146, R147: on a machine that is not halted an instruction faults at execute exactly when the
condition of its rule holds; the 27 instructions R180 names never fault. StackOverflow is D5, the rows of DRW D18. -/
def Obligations.InstructionsFaultExactlyWhenTheirRuleSays : Prop :=
  ∀ (i : Instr) (s : State), s.halted = false →
    ∃ t, exec i s = .next t ∧ (t.halted = true ↔ faultsAtExecute i s)

/-- R166, R180, R160: when the condition holds the next state is the fault entry: OutOfBounds(0x1000) for DRW, BCD, STM, LDM (D23),
StackUnderflow(0) for RET, StackOverflow(0) for CALL (D5); everything else is as it was. -/
def Obligations.FaultsAtExecuteRecordTheirCode : Prop :=
  (∀ s : State, faultsAtExecute .ret s →
    exec .ret s = .next { s with halted := true, faultCode := 2#3, faultInfo := 0#16 }) ∧
  (∀ (nnn : Addr) (s : State), faultsAtExecute (.call nnn) s →
    exec (.call nnn) s = .next { s with halted := true, faultCode := 4#3, faultInfo := 0#16 }) ∧
  (∀ (x y n : Nibble) (s : State), faultsAtExecute (.drw x y n) s →
    exec (.drw x y n) s = .next { s with halted := true, faultCode := 1#3, faultInfo := 0x1000#16 }) ∧
  (∀ (x : Nibble) (s : State), faultsAtExecute (.bcd x) s →
    exec (.bcd x) s = .next { s with halted := true, faultCode := 1#3, faultInfo := 0x1000#16 }) ∧
  (∀ (x : Nibble) (s : State), faultsAtExecute (.stm x) s →
    exec (.stm x) s = .next { s with halted := true, faultCode := 1#3, faultInfo := 0x1000#16 }) ∧
  (∀ (x : Nibble) (s : State), faultsAtExecute (.ldm x) s →
    exec (.ldm x) s = .next { s with halted := true, faultCode := 1#3, faultInfo := 0x1000#16 })

/-- R167 (D13): once halted, nothing the host does but `reset` brings the CORE back: over every sequence of events without a
reset the latch, the fault record and every register stay; `load_rom` may still change memory. -/
def Obligations.OnlyResetLeavesTheHaltedState : Prop :=
  ∀ (es : List HostEvent) (s : State), s.halted = true → HostEvent.reset ∉ es →
    ∃ t, applyEvents es s = .next t ∧ SameFaultRecord s t ∧ t.pc = s.pc ∧ t.v = s.v ∧ t.idx = s.idx ∧
      t.stack = s.stack ∧ t.fb = s.fb ∧ t.dt = s.dt ∧ t.st = s.st ∧ t.flushes = s.flushes

/-! ## Invariants -/

/-- The memory of every state after a tick is in canonical form, all addresses below 4096 (R40), if it was before. The form is
the model's (R40 gives the address range). -/
def Obligations.EveryTickKeepsMemoryCanonical : Prop :=
  ∀ s t : State, s.MemOk → step s = .next t → t.MemOk

/-- R28: PC at most 0x1002 and stack entries at most 0x1000, kept by every tick. -/
def Obligations.EveryTickKeepsPcBound : Prop :=
  ∀ s t : State, s.PcOk → step s = .next t → t.PcOk

/-- R17, R82 (D5): the stack stays within STACK_DEPTH. -/
def Obligations.EveryTickKeepsStackBound : Prop :=
  ∀ s t : State, s.StackOk → step s = .next t → t.StackOk

/-- R20, R160: the fault record is empty on a machine that is not halted and one of the rows of R160 on a halted one. The
codes and `fault_info` are D12 and D23; PcOk bounds the reported address. -/
def Obligations.EveryTickKeepsFaultRecordLegal : Prop :=
  ∀ s t : State, s.PcOk → s.RecordOk → step s = .next t → t.RecordOk

/-- All invariants hold along every run with the host in it: resets, loads, starts, stops, any inputs, any ticks (R25, R26,
R28). -/
def Obligations.EveryEventSequenceKeepsTheInvariants : Prop :=
  ∀ (es : List HostEvent) (s : State), s.Inv → ∃ t, applyEvents es s = .next t ∧ t.Inv

/-- The state right after reset meets every invariant, for every setting of the parameters and whatever is on the inputs. -/
def Obligations.ResetMeetsTheInvariants : Prop :=
  State.reset.Inv ∧ ∀ (p : Params) (k : Word) (b : Byte) (r : Bool), (State.resetWith p k b r).Inv

/-- A canonical memory is determined by what its bytes read as, so equal memories are equal data (R40; the form is the
model's). -/
def Obligations.CanonicalMemoriesWithTheSameBytesAreEqual : Prop :=
  ∀ (font : Vector Byte 80) (m n : Memory), Memory.wf font m = true → Memory.wf font n = true →
    (∀ a, Memory.read font m a = Memory.read font n a) → m = n

/-- R43, R44, R50, R51: a byte reads as what was last written there, every other byte as before, and no read changes
anything. -/
def Obligations.ByteReadsWhatWasLastWritten : Prop :=
  ∀ (s : State) (a k : Nat) (b : Byte),
    (s.setByte a b).byte k = (if k = a then b else s.byte k) ∧
    FrameBut { mem := fun j => j = a } s (s.setByte a b) ∧ (s.setByte a b).pc = s.pc

/-! ## Frames -/

/-- The column "writes" of R31, for all 33 instructions: an instruction that does not fault changes nothing but PC and what the
table lists for it; an instruction that faults changes nothing but the fault record (R166). -/
def Obligations.InstructionsChangeOnlyWhatTable31Lists : Prop :=
  ∀ (i : Instr) (s t : State), exec i s = .next t →
    (¬faultsAtExecute i s → FrameBut (table31 i s) s t) ∧
    (faultsAtExecute i s →
      t = { s with halted := true, faultCode := t.faultCode, faultInfo := t.faultInfo })

/-! ## Immediate loads (spec/42_immediate.md) -/

/-- LDB, R100 whole: encoding, result, PC, no flag (VF only as the destination), no fault. -/
def Obligations.LdbLoadsTheByte : Prop :=
  ∀ (x : Nibble) (nn : Byte) (s : State),
    Encodes (.ldb x nn) .xb 0x6000#16 0xF000#16 (wordXB 0x6000#16 x nn) ∧
    ∃ t, exec (.ldb x nn) s = .next t ∧ t.reg x = nn ∧ t.pc = s.pc + 2#16 ∧
      FrameBut { reg := fun z => z = x } s t

/-- ADDB, R101 whole: the sum modulo 256, no flag whether or not it exceeds 255; with X = F the register is VF itself. -/
def Obligations.AddbAddsModulo256WithoutFlag : Prop :=
  ∀ (x : Nibble) (nn : Byte) (s : State),
    Encodes (.addb x nn) .xb 0x7000#16 0xF000#16 (wordXB 0x7000#16 x nn) ∧
    ∃ t, exec (.addb x nn) s = .next t ∧ (t.reg x).toNat = ((s.reg x).toNat + nn.toNat) % 256 ∧
      t.pc = s.pc + 2#16 ∧ FrameBut { reg := fun z => z = x } s t

/-- LDI, R102 whole: I := NNN, unchecked, no flag, no fault. -/
def Obligations.LdiLoadsTheIndexRegister : Prop :=
  ∀ (nnn : Addr) (s : State),
    Encodes (.ldi nnn) .a 0xA000#16 0xF000#16 (wordA 0xA000#16 nnn) ∧
    ∃ t, exec (.ldi nnn) s = .next t ∧ t.idx = nnn ∧ t.pc = s.pc + 2#16 ∧ FrameBut { idx := True } s t

/-- RND, R103: V[X] := rnd AND NN for every value of the input, which is the decision D10. The byte sampled next is free again
after the tick, which is the model's free value (log entry 1). -/
def Obligations.RndMasksTheSampledByte : Prop :=
  ∀ (x : Nibble) (nn : Byte) (s : State),
    Encodes (.rnd x nn) .xb 0xC000#16 0xF000#16 (wordXB 0xC000#16 x nn) ∧
    ∃ t, exec (.rnd x nn) s = .next t ∧ t.reg x = s.rnd &&& nn ∧
      (∀ k, nn.getLsbD k = false → (t.reg x).getLsbD k = false) ∧
      t.pc = s.pc + 2#16 ∧ FrameBut { reg := fun z => z = x } s t ∧
      (s.halted = false → (finishTick (.rnd x nn) t).rnd = Config.rndInput s.samples)

/-! ## Register-to-register operations (spec/43_alu.md) -/

/-- MOV, R111 whole. -/
def Obligations.MovCopiesTheRegister : Prop :=
  ∀ (x y : Nibble) (s : State),
    Encodes (.mov x y) .xy 0x8000#16 0xF00F#16 (wordXY 0x8000#16 x y) ∧
    ∃ t, exec (.mov x y) s = .next t ∧ t.reg x = s.reg y ∧ t.pc = s.pc + 2#16 ∧
      FrameBut { reg := fun z => z = x } s t

/-- OR, AND, XOR, R112, R113, R114: bitwise results, bit by bit; XOR with X = Y clears. That VF is not written unless X = F is the
decision D24 (log entry 13). -/
def Obligations.OrAndXorAreBitwiseWithoutFlag : Prop :=
  ∀ (x y : Nibble) (s : State),
    (Encodes (.or x y) .xy 0x8001#16 0xF00F#16 (wordXY 0x8001#16 x y) ∧
      ∃ t, exec (.or x y) s = .next t ∧
        (∀ k, (t.reg x).getLsbD k = ((s.reg x).getLsbD k || (s.reg y).getLsbD k)) ∧
        t.pc = s.pc + 2#16 ∧ FrameBut { reg := fun z => z = x } s t) ∧
    (Encodes (.and x y) .xy 0x8002#16 0xF00F#16 (wordXY 0x8002#16 x y) ∧
      ∃ t, exec (.and x y) s = .next t ∧
        (∀ k, (t.reg x).getLsbD k = ((s.reg x).getLsbD k && (s.reg y).getLsbD k)) ∧
        t.pc = s.pc + 2#16 ∧ FrameBut { reg := fun z => z = x } s t) ∧
    (Encodes (.xor x y) .xy 0x8003#16 0xF00F#16 (wordXY 0x8003#16 x y) ∧
      ∃ t, exec (.xor x y) s = .next t ∧
        (∀ k, (t.reg x).getLsbD k = ((s.reg x).getLsbD k ^^ (s.reg y).getLsbD k)) ∧
        (x = y → t.reg x = 0#8) ∧
        t.pc = s.pc + 2#16 ∧ FrameBut { reg := fun z => z = x } s t)

/-- ADD, R115 with R110: the result modulo 256 in V[X] always; VF = carry when X is not F; the operands are the old values
whichever of X, Y is F. What happens when X = F or Y = F is the decision D2. -/
def Obligations.AddWritesCarryThenSum : Prop :=
  ∀ (x y : Nibble) (s : State),
    Encodes (.add x y) .xy 0x8004#16 0xF00F#16 (wordXY 0x8004#16 x y) ∧
    ∃ t, exec (.add x y) s = .next t ∧
      (t.reg x).toNat = ((s.reg x).toNat + (s.reg y).toNat) % 256 ∧
      (x ≠ regF → t.reg regF = if 255 < (s.reg x).toNat + (s.reg y).toNat then 1#8 else 0#8) ∧
      t.pc = s.pc + 2#16 ∧ FrameBut { reg := fun z => z = x ∨ z = regF } s t

/-- SUB and SUBN, R116, R118, R120 with R110: differences modulo 256; SUB sets VF only when Vx is strictly greater, SUBN clears it
only when Vy is strictly less, so equal operands give 0 and 1. X = F or Y = F is the decision D2. -/
def Obligations.SubAndSubnWriteTheirComparisonThenDifference : Prop :=
  ∀ (x y : Nibble) (s : State),
    (Encodes (.sub x y) .xy 0x8005#16 0xF00F#16 (wordXY 0x8005#16 x y) ∧
      ∃ t, exec (.sub x y) s = .next t ∧
        (t.reg x).toNat = ((s.reg x).toNat + 256 - (s.reg y).toNat) % 256 ∧
        (x ≠ regF → t.reg regF = if (s.reg y).toNat < (s.reg x).toNat then 1#8 else 0#8) ∧
        t.pc = s.pc + 2#16 ∧ FrameBut { reg := fun z => z = x ∨ z = regF } s t) ∧
    (Encodes (.subn x y) .xy 0x8007#16 0xF00F#16 (wordXY 0x8007#16 x y) ∧
      ∃ t, exec (.subn x y) s = .next t ∧
        (t.reg x).toNat = ((s.reg y).toNat + 256 - (s.reg x).toNat) % 256 ∧
        (x ≠ regF → t.reg regF = if (s.reg y).toNat < (s.reg x).toNat then 0#8 else 1#8) ∧
        t.pc = s.pc + 2#16 ∧ FrameBut { reg := fun z => z = x ∨ z = regF } s t)

/-- SHR and SHL, R117, R119 with R110: both shift Vy (D27); SHR's flag is bit 0 of Vy, SHL's is bit 7 of the old Vx (C5). X = F or
Y = F is the decision D2. -/
def Obligations.ShiftsTakeVyAndTheirOwnFlag : Prop :=
  ∀ (x y : Nibble) (s : State),
    (Encodes (.shr x y) .xy 0x8006#16 0xF00F#16 (wordXY 0x8006#16 x y) ∧
      ∃ t, exec (.shr x y) s = .next t ∧
        (t.reg x).toNat = (s.reg y).toNat / 2 ∧
        (x ≠ regF → (t.reg regF).toNat = (s.reg y).toNat % 2) ∧
        t.pc = s.pc + 2#16 ∧ FrameBut { reg := fun z => z = x ∨ z = regF } s t) ∧
    (Encodes (.shl x y) .xy 0x800E#16 0xF00F#16 (wordXY 0x800E#16 x y) ∧
      ∃ t, exec (.shl x y) s = .next t ∧
        (t.reg x).toNat = (s.reg y).toNat * 2 % 256 ∧
        (x ≠ regF → (t.reg regF).toNat = (s.reg x).toNat / 128) ∧
        t.pc = s.pc + 2#16 ∧ FrameBut { reg := fun z => z = x ∨ z = regF } s t)

/-! ## Skips (spec/41_skip.md) -/

/-- SEB and SNEB, R90, R91 whole. -/
def Obligations.SebAndSnebSkipOnTheByte : Prop :=
  ∀ (x : Nibble) (nn : Byte) (s : State),
    (Encodes (.seb x nn) .xb 0x3000#16 0xF000#16 (wordXB 0x3000#16 x nn) ∧
      ∃ t, exec (.seb x nn) s = .next t ∧ FrameBut {} s t ∧
        (s.reg x = nn → t.pc = s.pc + 4#16) ∧ (s.reg x ≠ nn → t.pc = s.pc + 2#16)) ∧
    (Encodes (.sneb x nn) .xb 0x4000#16 0xF000#16 (wordXB 0x4000#16 x nn) ∧
      ∃ t, exec (.sneb x nn) s = .next t ∧ FrameBut {} s t ∧
        (s.reg x ≠ nn → t.pc = s.pc + 4#16) ∧ (s.reg x = nn → t.pc = s.pc + 2#16))

/-- SE and SNE, R92, R93: the low nibble must be 0 (C7, D7); X = Y always skips under SE and never under SNE. -/
def Obligations.SeAndSneSkipOnTheRegisters : Prop :=
  ∀ (x y : Nibble) (s : State),
    (Encodes (.se x y) .xy 0x5000#16 0xF00F#16 (wordXY 0x5000#16 x y) ∧
      ∃ t, exec (.se x y) s = .next t ∧ FrameBut {} s t ∧
        (s.reg x = s.reg y → t.pc = s.pc + 4#16) ∧ (s.reg x ≠ s.reg y → t.pc = s.pc + 2#16) ∧
        (x = y → t.pc = s.pc + 4#16)) ∧
    (Encodes (.sne x y) .xy 0x9000#16 0xF00F#16 (wordXY 0x9000#16 x y) ∧
      ∃ t, exec (.sne x y) s = .next t ∧ FrameBut {} s t ∧
        (s.reg x ≠ s.reg y → t.pc = s.pc + 4#16) ∧ (s.reg x = s.reg y → t.pc = s.pc + 2#16) ∧
        (x = y → t.pc = s.pc + 2#16)) ∧
    (∀ n : Nibble, n ≠ 0#4 →
      decode (encodeXY 0x5#4 x y n) = .error (.unrecognized (encodeXY 0x5#4 x y n)) ∧
      decode (encodeXY 0x9#4 x y n) = .error (.unrecognized (encodeXY 0x9#4 x y n)))

/-- SKP and SKNP, R94, R95: the key tested is the X nibble, whatever V[X] holds (D8). The key-state sampled next is free again
after the tick, which is the model's free value (log entry 1). -/
def Obligations.SkpAndSknpTestTheKeyOfTheOpcode : Prop :=
  ∀ (x : Nibble) (s : State),
    (Encodes (.skp x) .xf 0xE09E#16 0xF0FF#16 (wordX 0xE09E#16 x) ∧
      ∃ t, exec (.skp x) s = .next t ∧ FrameBut {} s t ∧
        (s.keys.getLsbD x.toNat = true → t.pc = s.pc + 4#16) ∧
        (s.keys.getLsbD x.toNat = false → t.pc = s.pc + 2#16) ∧
        (s.halted = false → (finishTick (.skp x) t).keys = Config.keysInput s.samples)) ∧
    (Encodes (.sknp x) .xf 0xE0A1#16 0xF0FF#16 (wordX 0xE0A1#16 x) ∧
      ∃ t, exec (.sknp x) s = .next t ∧ FrameBut {} s t ∧
        (s.keys.getLsbD x.toNat = false → t.pc = s.pc + 4#16) ∧
        (s.keys.getLsbD x.toNat = true → t.pc = s.pc + 2#16) ∧
        (s.halted = false → (finishTick (.sknp x) t).keys = Config.keysInput s.samples))

/-! ## Control transfer (spec/40_flow.md) -/

/-- JP and JPV, R81, R83, R84: PC is assigned and not advanced, odd or even, checked or not; JPV is NN + V[X] (C4, D9), at most
510. -/
def Obligations.JpAndJpvAssignPc : Prop :=
  (∀ (nnn : Addr) (s : State),
    Encodes (.jp nnn) .a 0x1000#16 0xF000#16 (wordA 0x1000#16 nnn) ∧
    ∃ t, exec (.jp nnn) s = .next t ∧ t.pc.toNat = nnn.toNat ∧ FrameBut {} s t) ∧
  (∀ (x : Nibble) (nn : Byte) (s : State),
    Encodes (.jpv x nn) .xb 0xB000#16 0xF000#16 (wordXB 0xB000#16 x nn) ∧
    ∃ t, exec (.jpv x nn) s = .next t ∧ t.pc.toNat = nn.toNat + (s.reg x).toNat ∧ t.pc.toNat ≤ 510 ∧ FrameBut {} s t)

/-- CALL, R82: unless a finite stack is full (D5), the address of the next instruction is pushed (C2, D6) and PC := NNN. -/
def Obligations.CallPushesTheReturnAddress : Prop :=
  ∀ (nnn : Addr) (s : State),
    Encodes (.call nnn) .a 0x2000#16 0xF000#16 (wordA 0x2000#16 nnn) ∧
    ((∀ d, s.params.stackDepth = some d → s.stack.length < d) →
      ∃ t, exec (.call nnn) s = .next t ∧ t.stack = (s.pc + 2#16) :: s.stack ∧ t.pc.toNat = nnn.toNat ∧
        FrameBut { stack := True } s t)

/-- RET, R80: on a stack with an entry, PC := the newest entry, used as it is and not advanced; the entries below stay. -/
def Obligations.RetPopsIntoPc : Prop :=
  ∀ (e : Word) (rest : List Word) (s : State), s.stack = e :: rest →
    Encodes .ret .w 0x00EE#16 0xFFFF#16 0x00EE#16 ∧
    ∃ t, exec .ret s = .next t ∧ t.pc = e ∧ t.stack = rest ∧ FrameBut { stack := True } s t

/-- The round trip of CHIP8JS section 8 (S4, R80, R82, C2): a CALL to an address that holds RET, then that RET, in two ticks:
PC is the instruction after the CALL, the stack is as before, no register, byte or pixel has changed. -/
def Obligations.CallThenRetResumesAfterTheCall : Prop :=
  ∀ (nnn : Addr) (s : State), s.Running → (∀ d, s.params.stackDepth = some d → s.stack.length < d) →
    fetchDecode s = .ok (.call nnn) → nnn.toNat ≤ 0xFFE →
    s.byte nnn.toNat = 0x00#8 → s.byte (nnn.toNat + 1) = 0xEE#8 →
    ∃ t, applyEvents [.tick, .tick] s = .next t ∧ t.pc = s.pc + 2#16 ∧
      FrameBut { dt := True, st := True } s t

/-! ## Display (spec/44_display.md) -/

/-- CLS, R130: every cell off, one flush (even when nothing changed, D20; the count is log entry 6), VF not written. -/
def Obligations.ClsClearsTheFramebuffer : Prop :=
  ∀ s : State,
    Encodes .cls .w 0x00E0#16 0xFFFF#16 0x00E0#16 ∧
    ∃ t, exec .cls s = .next t ∧ (∀ x y, t.pixel x y = false) ∧ t.flushes = s.flushes + 1 ∧
      t.pc = s.pc + 2#16 ∧ FrameBut { display := True } s t

/-- DRW, R131: when all N rows lie in memory (D18), each cell becomes cell XOR sprite bit, nothing is drawn off the screen, VF is
1 exactly when a sprite bit met a cell that was on, one flush (log entry 6), I (D24) and memory unchanged. The operands are the old
values when X or Y is F (D2). -/
def Obligations.DrwXorsTheSpriteAndReportsCollision : Prop :=
  ∀ (x y n : Nibble) (s : State), n = 0#4 ∨ s.idx.toNat + n.toNat ≤ 4096 →
    Encodes (.drw x y n) .xyn 0xD000#16 0xF000#16 (wordXY 0xD000#16 x y ||| n.setWidth 16) ∧
    ∃ t, exec (.drw x y n) s = .next t ∧
      (∀ px py, t.pixel px py = (s.pixel px py ^^ drwBit s x y n px py)) ∧
      (t.reg regF = 0#8 ∨ t.reg regF = 1#8) ∧
      (t.reg regF = 1#8 ↔ ∃ px py, drwBit s x y n px py = true ∧ s.pixel px py = true) ∧
      t.flushes = s.flushes + 1 ∧ t.pc = s.pc + 2#16 ∧
      FrameBut { reg := fun z => z = regF, display := True } s t

/-- R133 (C6), from any framebuffer: two DRW of the same operands (X and Y not F, so that they still hold the coordinates) restore
it; and the second one's VF is 1 exactly when the sprite has a set bit on a cell that the first one left on. From a clear
framebuffer that is: VF = 0 after the first, and after the second VF = 1 iff the sprite has a set bit on the screen. -/
def Obligations.DrawingTwiceRestoresTheFramebuffer : Prop :=
  ∀ (x y n : Nibble) (s t u : State), x ≠ regF → y ≠ regF → n = 0#4 ∨ s.idx.toNat + n.toNat ≤ 4096 →
    exec (.drw x y n) s = .next t → exec (.drw x y n) t = .next u →
    u.fb = s.fb ∧
    (u.reg regF = 1#8 ↔ ∃ px py, drwBit s x y n px py = true ∧ t.pixel px py = true) ∧
    ((∀ px py, s.pixel px py = false) →
      t.reg regF = 0#8 ∧ (∀ px py, t.pixel px py = drwBit s x y n px py) ∧
      (u.reg regF = 1#8 ↔ ∃ px py, drwBit s x y n px py = true))

/-! ## Timers, index, memory transfer (spec/45_timer_index_memory.md) -/

/-- LDDT and STDT, R140, R141 whole: V[X] := DT before this tick's decrement; DT := V[X], one lower (floor 0) at the end of the
same tick; so LDDT right after STDT reads one less than was written. -/
def Obligations.LddtAndStdtMoveTheDelayTimer : Prop :=
  ∀ (x y : Nibble) (s : State), s.halted = false →
    (Encodes (.lddt x) .xf 0xF007#16 0xF0FF#16 (wordX 0xF007#16 x) ∧
      ∃ t, exec (.lddt x) s = .next t ∧ t.reg x = s.dt ∧ t.pc = s.pc + 2#16 ∧
        FrameBut { reg := fun z => z = x } s t ∧
        (finishTick (.lddt x) t).dt.toNat = s.dt.toNat - 1 ∧ (finishTick (.lddt x) t).reg x = s.dt) ∧
    (Encodes (.stdt x) .xf 0xF015#16 0xF0FF#16 (wordX 0xF015#16 x) ∧
      ∃ t, exec (.stdt x) s = .next t ∧ t.dt = s.reg x ∧ t.pc = s.pc + 2#16 ∧ FrameBut { dt := True } s t ∧
        (finishTick (.stdt x) t).dt.toNat = (s.reg x).toNat - 1 ∧
        ∃ u, exec (.lddt y) (finishTick (.stdt x) t) = .next u ∧ (u.reg y).toNat = (s.reg x).toNat - 1)

/-- STST, R142: ST := V[X]; `st_value` at the end of the tick is one lower (D28), so 1 never opens the tone gate (R172). -/
def Obligations.StstSetsTheSoundTimer : Prop :=
  ∀ (x : Nibble) (s : State), s.halted = false →
    Encodes (.stst x) .xf 0xF018#16 0xF0FF#16 (wordX 0xF018#16 x) ∧
    ∃ t, exec (.stst x) s = .next t ∧ t.st = s.reg x ∧ t.pc = s.pc + 2#16 ∧ FrameBut { st := True } s t ∧
      (finishTick (.stst x) t).stValue.toNat = (s.reg x).toNat - 1 ∧
      ((s.reg x).toNat ≤ 1 → (finishTick (.stst x) t).toneGate = false)

/-- ADDI, R143, R13 (D3, D24): I := (I + V[X]) mod 4096, VF not written. -/
def Obligations.AddiAddsModulo4096WithoutFlag : Prop :=
  ∀ (x : Nibble) (s : State),
    Encodes (.addi x) .xf 0xF01E#16 0xF0FF#16 (wordX 0xF01E#16 x) ∧
    ∃ t, exec (.addi x) s = .next t ∧ t.idx.toNat = (s.idx.toNat + (s.reg x).toNat) % 4096 ∧
      t.pc = s.pc + 2#16 ∧ FrameBut { idx := True } s t

/-- FONT, R144 whole: I := V[X] * 5, the whole byte multiplied, nothing reduced. -/
def Obligations.FontPointsAtFiveTimesTheRegister : Prop :=
  ∀ (x : Nibble) (s : State),
    Encodes (.font x) .xf 0xF029#16 0xF0FF#16 (wordX 0xF029#16 x) ∧
    ∃ t, exec (.font x) s = .next t ∧ t.idx.toNat = (s.reg x).toNat * 5 ∧ t.pc = s.pc + 2#16 ∧
      FrameBut { idx := True } s t

/-- BCD, R145: with the run in memory the three digits land at I, I + 1, I + 2, hundreds first; no other byte changes,
nor I (D24). -/
def Obligations.BcdStoresTheDecimalDigits : Prop :=
  ∀ (x : Nibble) (s : State), s.idx.toNat + 2 < 4096 →
    Encodes (.bcd x) .xf 0xF033#16 0xF0FF#16 (wordX 0xF033#16 x) ∧
    ∃ t, exec (.bcd x) s = .next t ∧
      (t.byte s.idx.toNat).toNat = (s.reg x).toNat / 100 ∧
      (t.byte (s.idx.toNat + 1)).toNat = (s.reg x).toNat / 10 % 10 ∧
      (t.byte (s.idx.toNat + 2)).toNat = (s.reg x).toNat % 10 ∧
      t.pc = s.pc + 2#16 ∧
      FrameBut { mem := fun a => s.idx.toNat ≤ a ∧ a < s.idx.toNat + 3 } s t

/-- STM, R146, R148: with the run in memory V[k] lands at I + k for k in 0..X; no other byte changes, I included (D24). -/
def Obligations.StmStoresTheRegisters : Prop :=
  ∀ (x : Nibble) (s : State), s.idx.toNat + x.toNat < 4096 →
    Encodes (.stm x) .xf 0xF055#16 0xF0FF#16 (wordX 0xF055#16 x) ∧
    ∃ t, exec (.stm x) s = .next t ∧
      (∀ z : Nibble, z.toNat ≤ x.toNat → t.byte (s.idx.toNat + z.toNat) = s.reg z) ∧
      t.pc = s.pc + 2#16 ∧
      FrameBut { mem := fun a => s.idx.toNat ≤ a ∧ a ≤ s.idx.toNat + x.toNat } s t

/-- LDM, R147, R148: with the run in memory MEM[I + k] lands in V[k] for k in 0..X; the registers above X, I and memory stay
(D24). -/
def Obligations.LdmLoadsTheRegisters : Prop :=
  ∀ (x : Nibble) (s : State), s.idx.toNat + x.toNat < 4096 →
    Encodes (.ldm x) .xf 0xF065#16 0xF0FF#16 (wordX 0xF065#16 x) ∧
    ∃ t, exec (.ldm x) s = .next t ∧
      (∀ z : Nibble, z.toNat ≤ x.toNat → t.reg z = s.byte (s.idx.toNat + z.toNat)) ∧
      t.pc = s.pc + 2#16 ∧ FrameBut { reg := fun z => z.toNat ≤ x.toNat } s t

/-- Saving and restoring (R146, R147): after STM X, any registers at all and LDM X at the same I give V[0..X] back. -/
def Obligations.LdmAfterStmRestoresTheRegisters : Prop :=
  ∀ (x : Nibble) (s t u : State), s.idx.toNat + x.toNat < 4096 → exec (.stm x) s = .next t →
    u.idx = t.idx → (∀ a, u.byte a = t.byte a) →
    ∃ w, exec (.ldm x) u = .next w ∧ (∀ z : Nibble, z.toNat ≤ x.toNat → w.reg z = s.reg z) ∧
      (∀ z : Nibble, x.toNat < z.toNat → w.reg z = u.reg z)

/-- R54, R197: a byte stored by one instruction is fetched as code by the next. An STM whose run covers the two bytes after it
leaves a next fetch of the two stored registers. -/
def Obligations.NextFetchSeesTheStore : Prop :=
  ∀ (x k : Nibble) (s t : State), s.idx.toNat + x.toNat < 4096 → k.toNat < x.toNat →
    s.pc.toNat + 2 = s.idx.toNat + k.toNat → exec (.stm x) s = .next t →
    fetch (finishTick (.stm x) t) = .ok (wordOfBytes (s.reg k) (s.reg (k + 1#4)))

/-! ## Whole-machine rules -/

/-- R171, R141, R142 (D14 for faulting ticks): a tick that completes an instruction lowers each timer by 1, floor 0, from what the
instruction left: DT from V[X] under STDT, ST from V[X] under STST, else from the old value. -/
def Obligations.CompletedTickLowersTheTimers : Prop :=
  ∀ (s t : State) (i : Instr), s.Running → fetchDecode s = .ok i → step s = .next t → t.halted = false →
    t.dt.toNat = (match i with | .stdt x => (s.reg x).toNat | _ => s.dt.toNat) - 1 ∧
    t.st.toNat = (match i with | .stst x => (s.reg x).toNat | _ => s.st.toNat) - 1

/-- R203 (D26), R171, U11: from PC at a self-jump the machine runs for any number of ticks, never faults, and only DT and ST
change, each one lower per tick down to 0. -/
def Obligations.FinishedMachineOnlyCountsDown : Prop :=
  ∀ (n : Nat) (s : State), s.run = true → s.Finished →
    ∃ t, applyEvents (List.replicate n .tick) s = .next t ∧ t.Finished ∧ t.pc = s.pc ∧
      t.dt.toNat = s.dt.toNat - n ∧ t.st.toNat = s.st.toNat - n ∧
      FrameBut { dt := True, st := True } s t

/-- R21, R31: no instruction but SKP and SKNP depends on the key-state, and none but RND on the random input: changing the input
before is the same as changing it after. -/
def Obligations.InputsReachOnlyTheInstructionsThatSampleThem : Prop :=
  ∀ (i : Instr) (s : State),
    (samplesKeys i = false → ∀ k : Word,
      ∃ t, exec i s = .next t ∧ exec i (s.setKeys k) = .next (t.setKeys k)) ∧
    (samplesRnd i = false → ∀ b : Byte,
      ∃ t, exec i s = .next t ∧ exec i (s.setRnd b) = .next (t.setRnd b))

/-! ## Reset, loading, start and stop (spec/70_reset_and_hazards.md) -/

/-- R190, R29, R192: `reset()` on any state leaves the values of R29 (the halt rows are D13), with the font of the parameter FONT
(D19) in 0x000 to 0x04F; it does not touch the inputs (D25) or the parameters and raises no flush (D20). -/
def Obligations.ResetLeavesTheValuesOfTheTable : Prop :=
  ∀ s : State,
    (∀ a, (h : a < 80) → s.hostReset.byte a = s.params.font[a]) ∧
    (∀ a, 80 ≤ a → s.hostReset.byte a = 0#8) ∧
    (∀ z, s.hostReset.reg z = 0#8) ∧ s.hostReset.idx = 0#12 ∧ s.hostReset.pc = 0x200#16 ∧
    s.hostReset.stack = [] ∧ (∀ x y, s.hostReset.pixel x y = false) ∧
    s.hostReset.dt = 0#8 ∧ s.hostReset.st = 0#8 ∧
    s.hostReset.halted = false ∧ s.hostReset.faultCode = 0#3 ∧ s.hostReset.faultInfo = 0#16 ∧
    SameInputs s s.hostReset ∧ s.hostReset.flushes = s.flushes

/-- R195, R179, R48 (D15): a ROM of at most 3584 bytes is copied to 0x200 upward and nothing else changes; a longer one is refused
whole. -/
def Obligations.LoadRomCopiesAllOrNothing : Prop :=
  ∀ (s : State) (bytes : List Byte),
    (bytes.length ≤ 3584 → (s.loadRom bytes).2 = false ∧
      (∀ k, (h : k < bytes.length) → (s.loadRom bytes).1.byte (0x200 + k) = bytes[k]) ∧
      FrameBut { mem := fun a => 0x200 ≤ a ∧ a < 0x200 + bytes.length } s (s.loadRom bytes).1 ∧
      (s.loadRom bytes).1.pc = s.pc) ∧
    (3584 < bytes.length → s.loadRom bytes = (s, true))

/-- R196, R176 (D13): `stop()` then any number of ticks then `start()` gives the started machine back as it was; `start()` does
not clear `halted`. -/
def Obligations.StopAndStartLoseNothing : Prop :=
  ∀ (n : Nat) (s : State),
    applyEvents (.stop :: List.replicate n .tick ++ [.start]) s = .next { s with run := true } ∧
    (s.halted = true → applyEvents [.start, .tick] s = .next { s with run := true })

/-- R193, R194: after reset, load_rom and start, from any state at all, the first tick runs the instruction in the first two ROM
bytes at 0x200, on zeroed registers; without a load it faults UnrecognizedOpcode(0x0000) with PC = 0x200. -/
def Obligations.BootRunsTheFirstRomInstruction : Prop :=
  (∀ (s : State) (bytes : List Byte) (i : Instr) (rest : List Byte), bytes.length ≤ 3584 →
    decodeBytes bytes = .ok (i, rest) →
    ∃ t, applyEvents [.reset, .loadRom bytes, .start] s = .next t ∧ t.pc = 0x200#16 ∧ (∀ z, t.reg z = 0#8) ∧
      t.stack = [] ∧ step t = endTick i (exec i t)) ∧
  (∀ s : State, applyEvents [.reset, .start, .tick] s =
    .next { s.hostReset with run := true, halted := true, faultCode := 3#3, faultInfo := 0#16 })
end

