-- ==== Sys2Proof/Laws/State.lean ====
section
/-! SUPPORT. One lemma per field per update of the state, and per accessor that an update leaves alone: all true by `rfl`, all
in the simp set, so that no proof unfolds a record update. -/

namespace Sys2Proof.Machine

variable (s : State)

@[simp] theorem State.setByte_mem (a : Nat) (b : Byte) : (s.setByte a b).mem = Memory.write s.params.font s.mem a b := rfl
@[simp] theorem State.setByte_v (a : Nat) (b : Byte) : (s.setByte a b).v = s.v := rfl
@[simp] theorem State.setByte_idx (a : Nat) (b : Byte) : (s.setByte a b).idx = s.idx := rfl
@[simp] theorem State.setByte_pc (a : Nat) (b : Byte) : (s.setByte a b).pc = s.pc := rfl
@[simp] theorem State.setByte_stack (a : Nat) (b : Byte) : (s.setByte a b).stack = s.stack := rfl
@[simp] theorem State.setByte_fb (a : Nat) (b : Byte) : (s.setByte a b).fb = s.fb := rfl
@[simp] theorem State.setByte_dt (a : Nat) (b : Byte) : (s.setByte a b).dt = s.dt := rfl
@[simp] theorem State.setByte_st (a : Nat) (b : Byte) : (s.setByte a b).st = s.st := rfl
@[simp] theorem State.setByte_halted (a : Nat) (b : Byte) : (s.setByte a b).halted = s.halted := rfl
@[simp] theorem State.setByte_faultCode (a : Nat) (b : Byte) : (s.setByte a b).faultCode = s.faultCode := rfl
@[simp] theorem State.setByte_faultInfo (a : Nat) (b : Byte) : (s.setByte a b).faultInfo = s.faultInfo := rfl
@[simp] theorem State.setByte_keys (a : Nat) (b : Byte) : (s.setByte a b).keys = s.keys := rfl
@[simp] theorem State.setByte_rnd (a : Nat) (b : Byte) : (s.setByte a b).rnd = s.rnd := rfl
@[simp] theorem State.setByte_run (a : Nat) (b : Byte) : (s.setByte a b).run = s.run := rfl
@[simp] theorem State.setByte_params (a : Nat) (b : Byte) : (s.setByte a b).params = s.params := rfl
@[simp] theorem State.setByte_flushes (a : Nat) (b : Byte) : (s.setByte a b).flushes = s.flushes := rfl
@[simp] theorem State.setByte_samples (a : Nat) (b : Byte) : (s.setByte a b).samples = s.samples := rfl
@[simp] theorem State.setByte_reg (a : Nat) (b : Byte) (z : Nibble) : (s.setByte a b).reg z = s.reg z := rfl
@[simp] theorem State.setByte_pixel (a : Nat) (b : Byte) (i : Fin 64) (j : Fin 32) : (s.setByte a b).pixel i j = s.pixel i j := rfl
@[simp] theorem State.setByte_base (a : Nat) (b : Byte) : (s.setByte a b).base = s.base := rfl
@[simp] theorem State.setByte_keyPressed (a : Nat) (b : Byte) (z : Nibble) : (s.setByte a b).keyPressed z = s.keyPressed z := rfl
@[simp] theorem State.setByte_stackFull (a : Nat) (b : Byte) : (s.setByte a b).stackFull = s.stackFull := rfl
@[simp] theorem State.setByte_regsUpTo (a : Nat) (b : Byte) (z : Nibble) : (s.setByte a b).regsUpTo z = s.regsUpTo z := rfl

@[simp] theorem State.setReg_mem (x : Nibble) (b : Byte) : (s.setReg x b).mem = s.mem := rfl
@[simp] theorem State.setReg_v (x : Nibble) (b : Byte) : (s.setReg x b).v = s.v.set x.toNat b x.isLt := rfl
@[simp] theorem State.setReg_idx (x : Nibble) (b : Byte) : (s.setReg x b).idx = s.idx := rfl
@[simp] theorem State.setReg_pc (x : Nibble) (b : Byte) : (s.setReg x b).pc = s.pc := rfl
@[simp] theorem State.setReg_stack (x : Nibble) (b : Byte) : (s.setReg x b).stack = s.stack := rfl
@[simp] theorem State.setReg_fb (x : Nibble) (b : Byte) : (s.setReg x b).fb = s.fb := rfl
@[simp] theorem State.setReg_dt (x : Nibble) (b : Byte) : (s.setReg x b).dt = s.dt := rfl
@[simp] theorem State.setReg_st (x : Nibble) (b : Byte) : (s.setReg x b).st = s.st := rfl
@[simp] theorem State.setReg_halted (x : Nibble) (b : Byte) : (s.setReg x b).halted = s.halted := rfl
@[simp] theorem State.setReg_faultCode (x : Nibble) (b : Byte) : (s.setReg x b).faultCode = s.faultCode := rfl
@[simp] theorem State.setReg_faultInfo (x : Nibble) (b : Byte) : (s.setReg x b).faultInfo = s.faultInfo := rfl
@[simp] theorem State.setReg_keys (x : Nibble) (b : Byte) : (s.setReg x b).keys = s.keys := rfl
@[simp] theorem State.setReg_rnd (x : Nibble) (b : Byte) : (s.setReg x b).rnd = s.rnd := rfl
@[simp] theorem State.setReg_run (x : Nibble) (b : Byte) : (s.setReg x b).run = s.run := rfl
@[simp] theorem State.setReg_params (x : Nibble) (b : Byte) : (s.setReg x b).params = s.params := rfl
@[simp] theorem State.setReg_flushes (x : Nibble) (b : Byte) : (s.setReg x b).flushes = s.flushes := rfl
@[simp] theorem State.setReg_samples (x : Nibble) (b : Byte) : (s.setReg x b).samples = s.samples := rfl
@[simp] theorem State.setReg_byte (x : Nibble) (b : Byte) (k : Nat) : (s.setReg x b).byte k = s.byte k := rfl
@[simp] theorem State.setReg_pixel (x : Nibble) (b : Byte) (i : Fin 64) (j : Fin 32) : (s.setReg x b).pixel i j = s.pixel i j := rfl
@[simp] theorem State.setReg_base (x : Nibble) (b : Byte) : (s.setReg x b).base = s.base := rfl
@[simp] theorem State.setReg_keyPressed (x : Nibble) (b : Byte) (z : Nibble) : (s.setReg x b).keyPressed z = s.keyPressed z := rfl
@[simp] theorem State.setReg_stackFull (x : Nibble) (b : Byte) : (s.setReg x b).stackFull = s.stackFull := rfl

@[simp] theorem State.loadRegs_mem (a : Nat) (x : Nibble) : (s.loadRegs a x).mem = s.mem := rfl
@[simp] theorem State.loadRegs_idx (a : Nat) (x : Nibble) : (s.loadRegs a x).idx = s.idx := rfl
@[simp] theorem State.loadRegs_pc (a : Nat) (x : Nibble) : (s.loadRegs a x).pc = s.pc := rfl
@[simp] theorem State.loadRegs_stack (a : Nat) (x : Nibble) : (s.loadRegs a x).stack = s.stack := rfl
@[simp] theorem State.loadRegs_fb (a : Nat) (x : Nibble) : (s.loadRegs a x).fb = s.fb := rfl
@[simp] theorem State.loadRegs_dt (a : Nat) (x : Nibble) : (s.loadRegs a x).dt = s.dt := rfl
@[simp] theorem State.loadRegs_st (a : Nat) (x : Nibble) : (s.loadRegs a x).st = s.st := rfl
@[simp] theorem State.loadRegs_halted (a : Nat) (x : Nibble) : (s.loadRegs a x).halted = s.halted := rfl
@[simp] theorem State.loadRegs_faultCode (a : Nat) (x : Nibble) : (s.loadRegs a x).faultCode = s.faultCode := rfl
@[simp] theorem State.loadRegs_faultInfo (a : Nat) (x : Nibble) : (s.loadRegs a x).faultInfo = s.faultInfo := rfl
@[simp] theorem State.loadRegs_keys (a : Nat) (x : Nibble) : (s.loadRegs a x).keys = s.keys := rfl
@[simp] theorem State.loadRegs_rnd (a : Nat) (x : Nibble) : (s.loadRegs a x).rnd = s.rnd := rfl
@[simp] theorem State.loadRegs_run (a : Nat) (x : Nibble) : (s.loadRegs a x).run = s.run := rfl
@[simp] theorem State.loadRegs_params (a : Nat) (x : Nibble) : (s.loadRegs a x).params = s.params := rfl
@[simp] theorem State.loadRegs_flushes (a : Nat) (x : Nibble) : (s.loadRegs a x).flushes = s.flushes := rfl
@[simp] theorem State.loadRegs_samples (a : Nat) (x : Nibble) : (s.loadRegs a x).samples = s.samples := rfl
@[simp] theorem State.loadRegs_byte (a : Nat) (x : Nibble) (k : Nat) : (s.loadRegs a x).byte k = s.byte k := rfl
@[simp] theorem State.loadRegs_pixel (a : Nat) (x : Nibble) (i : Fin 64) (j : Fin 32) : (s.loadRegs a x).pixel i j = s.pixel i j := rfl
@[simp] theorem State.loadRegs_base (a : Nat) (x : Nibble) : (s.loadRegs a x).base = s.base := rfl
@[simp] theorem State.loadRegs_keyPressed (a : Nat) (x : Nibble) (z : Nibble) : (s.loadRegs a x).keyPressed z = s.keyPressed z := rfl
@[simp] theorem State.loadRegs_stackFull (a : Nat) (x : Nibble) : (s.loadRegs a x).stackFull = s.stackFull := rfl

@[simp] theorem State.setIdx_mem (a : Addr) : (s.setIdx a).mem = s.mem := rfl
@[simp] theorem State.setIdx_v (a : Addr) : (s.setIdx a).v = s.v := rfl
@[simp] theorem State.setIdx_idx (a : Addr) : (s.setIdx a).idx = a := rfl
@[simp] theorem State.setIdx_pc (a : Addr) : (s.setIdx a).pc = s.pc := rfl
@[simp] theorem State.setIdx_stack (a : Addr) : (s.setIdx a).stack = s.stack := rfl
@[simp] theorem State.setIdx_fb (a : Addr) : (s.setIdx a).fb = s.fb := rfl
@[simp] theorem State.setIdx_dt (a : Addr) : (s.setIdx a).dt = s.dt := rfl
@[simp] theorem State.setIdx_st (a : Addr) : (s.setIdx a).st = s.st := rfl
@[simp] theorem State.setIdx_halted (a : Addr) : (s.setIdx a).halted = s.halted := rfl
@[simp] theorem State.setIdx_faultCode (a : Addr) : (s.setIdx a).faultCode = s.faultCode := rfl
@[simp] theorem State.setIdx_faultInfo (a : Addr) : (s.setIdx a).faultInfo = s.faultInfo := rfl
@[simp] theorem State.setIdx_keys (a : Addr) : (s.setIdx a).keys = s.keys := rfl
@[simp] theorem State.setIdx_rnd (a : Addr) : (s.setIdx a).rnd = s.rnd := rfl
@[simp] theorem State.setIdx_run (a : Addr) : (s.setIdx a).run = s.run := rfl
@[simp] theorem State.setIdx_params (a : Addr) : (s.setIdx a).params = s.params := rfl
@[simp] theorem State.setIdx_flushes (a : Addr) : (s.setIdx a).flushes = s.flushes := rfl
@[simp] theorem State.setIdx_samples (a : Addr) : (s.setIdx a).samples = s.samples := rfl
@[simp] theorem State.setIdx_byte (a : Addr) (k : Nat) : (s.setIdx a).byte k = s.byte k := rfl
@[simp] theorem State.setIdx_reg (a : Addr) (z : Nibble) : (s.setIdx a).reg z = s.reg z := rfl
@[simp] theorem State.setIdx_pixel (a : Addr) (i : Fin 64) (j : Fin 32) : (s.setIdx a).pixel i j = s.pixel i j := rfl
@[simp] theorem State.setIdx_keyPressed (a : Addr) (z : Nibble) : (s.setIdx a).keyPressed z = s.keyPressed z := rfl
@[simp] theorem State.setIdx_stackFull (a : Addr) : (s.setIdx a).stackFull = s.stackFull := rfl
@[simp] theorem State.setIdx_regsUpTo (a : Addr) (z : Nibble) : (s.setIdx a).regsUpTo z = s.regsUpTo z := rfl

@[simp] theorem State.setPc_mem (p : Word) : (s.setPc p).mem = s.mem := rfl
@[simp] theorem State.setPc_v (p : Word) : (s.setPc p).v = s.v := rfl
@[simp] theorem State.setPc_idx (p : Word) : (s.setPc p).idx = s.idx := rfl
@[simp] theorem State.setPc_pc (p : Word) : (s.setPc p).pc = p := rfl
@[simp] theorem State.setPc_stack (p : Word) : (s.setPc p).stack = s.stack := rfl
@[simp] theorem State.setPc_fb (p : Word) : (s.setPc p).fb = s.fb := rfl
@[simp] theorem State.setPc_dt (p : Word) : (s.setPc p).dt = s.dt := rfl
@[simp] theorem State.setPc_st (p : Word) : (s.setPc p).st = s.st := rfl
@[simp] theorem State.setPc_halted (p : Word) : (s.setPc p).halted = s.halted := rfl
@[simp] theorem State.setPc_faultCode (p : Word) : (s.setPc p).faultCode = s.faultCode := rfl
@[simp] theorem State.setPc_faultInfo (p : Word) : (s.setPc p).faultInfo = s.faultInfo := rfl
@[simp] theorem State.setPc_keys (p : Word) : (s.setPc p).keys = s.keys := rfl
@[simp] theorem State.setPc_rnd (p : Word) : (s.setPc p).rnd = s.rnd := rfl
@[simp] theorem State.setPc_run (p : Word) : (s.setPc p).run = s.run := rfl
@[simp] theorem State.setPc_params (p : Word) : (s.setPc p).params = s.params := rfl
@[simp] theorem State.setPc_flushes (p : Word) : (s.setPc p).flushes = s.flushes := rfl
@[simp] theorem State.setPc_samples (p : Word) : (s.setPc p).samples = s.samples := rfl
@[simp] theorem State.setPc_byte (p : Word) (k : Nat) : (s.setPc p).byte k = s.byte k := rfl
@[simp] theorem State.setPc_reg (p : Word) (z : Nibble) : (s.setPc p).reg z = s.reg z := rfl
@[simp] theorem State.setPc_pixel (p : Word) (i : Fin 64) (j : Fin 32) : (s.setPc p).pixel i j = s.pixel i j := rfl
@[simp] theorem State.setPc_base (p : Word) : (s.setPc p).base = s.base := rfl
@[simp] theorem State.setPc_keyPressed (p : Word) (z : Nibble) : (s.setPc p).keyPressed z = s.keyPressed z := rfl
@[simp] theorem State.setPc_stackFull (p : Word) : (s.setPc p).stackFull = s.stackFull := rfl
@[simp] theorem State.setPc_regsUpTo (p : Word) (z : Nibble) : (s.setPc p).regsUpTo z = s.regsUpTo z := rfl

@[simp] theorem State.advance_mem : (s.advance).mem = s.mem := rfl
@[simp] theorem State.advance_v : (s.advance).v = s.v := rfl
@[simp] theorem State.advance_idx : (s.advance).idx = s.idx := rfl
@[simp] theorem State.advance_pc : (s.advance).pc = s.pc + 2#16 := rfl
@[simp] theorem State.advance_stack : (s.advance).stack = s.stack := rfl
@[simp] theorem State.advance_fb : (s.advance).fb = s.fb := rfl
@[simp] theorem State.advance_dt : (s.advance).dt = s.dt := rfl
@[simp] theorem State.advance_st : (s.advance).st = s.st := rfl
@[simp] theorem State.advance_halted : (s.advance).halted = s.halted := rfl
@[simp] theorem State.advance_faultCode : (s.advance).faultCode = s.faultCode := rfl
@[simp] theorem State.advance_faultInfo : (s.advance).faultInfo = s.faultInfo := rfl
@[simp] theorem State.advance_keys : (s.advance).keys = s.keys := rfl
@[simp] theorem State.advance_rnd : (s.advance).rnd = s.rnd := rfl
@[simp] theorem State.advance_run : (s.advance).run = s.run := rfl
@[simp] theorem State.advance_params : (s.advance).params = s.params := rfl
@[simp] theorem State.advance_flushes : (s.advance).flushes = s.flushes := rfl
@[simp] theorem State.advance_samples : (s.advance).samples = s.samples := rfl
@[simp] theorem State.advance_byte (k : Nat) : (s.advance).byte k = s.byte k := rfl
@[simp] theorem State.advance_reg (z : Nibble) : (s.advance).reg z = s.reg z := rfl
@[simp] theorem State.advance_pixel (i : Fin 64) (j : Fin 32) : (s.advance).pixel i j = s.pixel i j := rfl
@[simp] theorem State.advance_base : (s.advance).base = s.base := rfl
@[simp] theorem State.advance_keyPressed (z : Nibble) : (s.advance).keyPressed z = s.keyPressed z := rfl
@[simp] theorem State.advance_stackFull : (s.advance).stackFull = s.stackFull := rfl
@[simp] theorem State.advance_regsUpTo (z : Nibble) : (s.advance).regsUpTo z = s.regsUpTo z := rfl

@[simp] theorem State.skip_mem : (s.skip).mem = s.mem := rfl
@[simp] theorem State.skip_v : (s.skip).v = s.v := rfl
@[simp] theorem State.skip_idx : (s.skip).idx = s.idx := rfl
@[simp] theorem State.skip_pc : (s.skip).pc = s.pc + 4#16 := rfl
@[simp] theorem State.skip_stack : (s.skip).stack = s.stack := rfl
@[simp] theorem State.skip_fb : (s.skip).fb = s.fb := rfl
@[simp] theorem State.skip_dt : (s.skip).dt = s.dt := rfl
@[simp] theorem State.skip_st : (s.skip).st = s.st := rfl
@[simp] theorem State.skip_halted : (s.skip).halted = s.halted := rfl
@[simp] theorem State.skip_faultCode : (s.skip).faultCode = s.faultCode := rfl
@[simp] theorem State.skip_faultInfo : (s.skip).faultInfo = s.faultInfo := rfl
@[simp] theorem State.skip_keys : (s.skip).keys = s.keys := rfl
@[simp] theorem State.skip_rnd : (s.skip).rnd = s.rnd := rfl
@[simp] theorem State.skip_run : (s.skip).run = s.run := rfl
@[simp] theorem State.skip_params : (s.skip).params = s.params := rfl
@[simp] theorem State.skip_flushes : (s.skip).flushes = s.flushes := rfl
@[simp] theorem State.skip_samples : (s.skip).samples = s.samples := rfl
@[simp] theorem State.skip_byte (k : Nat) : (s.skip).byte k = s.byte k := rfl
@[simp] theorem State.skip_reg (z : Nibble) : (s.skip).reg z = s.reg z := rfl
@[simp] theorem State.skip_pixel (i : Fin 64) (j : Fin 32) : (s.skip).pixel i j = s.pixel i j := rfl
@[simp] theorem State.skip_base : (s.skip).base = s.base := rfl
@[simp] theorem State.skip_keyPressed (z : Nibble) : (s.skip).keyPressed z = s.keyPressed z := rfl
@[simp] theorem State.skip_stackFull : (s.skip).stackFull = s.stackFull := rfl
@[simp] theorem State.skip_regsUpTo (z : Nibble) : (s.skip).regsUpTo z = s.regsUpTo z := rfl

@[simp] theorem State.push_mem (e : Word) : (s.push e).mem = s.mem := rfl
@[simp] theorem State.push_v (e : Word) : (s.push e).v = s.v := rfl
@[simp] theorem State.push_idx (e : Word) : (s.push e).idx = s.idx := rfl
@[simp] theorem State.push_pc (e : Word) : (s.push e).pc = s.pc := rfl
@[simp] theorem State.push_stack (e : Word) : (s.push e).stack = e :: s.stack := rfl
@[simp] theorem State.push_fb (e : Word) : (s.push e).fb = s.fb := rfl
@[simp] theorem State.push_dt (e : Word) : (s.push e).dt = s.dt := rfl
@[simp] theorem State.push_st (e : Word) : (s.push e).st = s.st := rfl
@[simp] theorem State.push_halted (e : Word) : (s.push e).halted = s.halted := rfl
@[simp] theorem State.push_faultCode (e : Word) : (s.push e).faultCode = s.faultCode := rfl
@[simp] theorem State.push_faultInfo (e : Word) : (s.push e).faultInfo = s.faultInfo := rfl
@[simp] theorem State.push_keys (e : Word) : (s.push e).keys = s.keys := rfl
@[simp] theorem State.push_rnd (e : Word) : (s.push e).rnd = s.rnd := rfl
@[simp] theorem State.push_run (e : Word) : (s.push e).run = s.run := rfl
@[simp] theorem State.push_params (e : Word) : (s.push e).params = s.params := rfl
@[simp] theorem State.push_flushes (e : Word) : (s.push e).flushes = s.flushes := rfl
@[simp] theorem State.push_samples (e : Word) : (s.push e).samples = s.samples := rfl
@[simp] theorem State.push_byte (e : Word) (k : Nat) : (s.push e).byte k = s.byte k := rfl
@[simp] theorem State.push_reg (e : Word) (z : Nibble) : (s.push e).reg z = s.reg z := rfl
@[simp] theorem State.push_pixel (e : Word) (i : Fin 64) (j : Fin 32) : (s.push e).pixel i j = s.pixel i j := rfl
@[simp] theorem State.push_base (e : Word) : (s.push e).base = s.base := rfl
@[simp] theorem State.push_keyPressed (e : Word) (z : Nibble) : (s.push e).keyPressed z = s.keyPressed z := rfl
@[simp] theorem State.push_regsUpTo (e : Word) (z : Nibble) : (s.push e).regsUpTo z = s.regsUpTo z := rfl

@[simp] theorem State.dropTop_mem : (s.dropTop).mem = s.mem := rfl
@[simp] theorem State.dropTop_v : (s.dropTop).v = s.v := rfl
@[simp] theorem State.dropTop_idx : (s.dropTop).idx = s.idx := rfl
@[simp] theorem State.dropTop_pc : (s.dropTop).pc = s.pc := rfl
@[simp] theorem State.dropTop_stack : (s.dropTop).stack = s.stack.tail := rfl
@[simp] theorem State.dropTop_fb : (s.dropTop).fb = s.fb := rfl
@[simp] theorem State.dropTop_dt : (s.dropTop).dt = s.dt := rfl
@[simp] theorem State.dropTop_st : (s.dropTop).st = s.st := rfl
@[simp] theorem State.dropTop_halted : (s.dropTop).halted = s.halted := rfl
@[simp] theorem State.dropTop_faultCode : (s.dropTop).faultCode = s.faultCode := rfl
@[simp] theorem State.dropTop_faultInfo : (s.dropTop).faultInfo = s.faultInfo := rfl
@[simp] theorem State.dropTop_keys : (s.dropTop).keys = s.keys := rfl
@[simp] theorem State.dropTop_rnd : (s.dropTop).rnd = s.rnd := rfl
@[simp] theorem State.dropTop_run : (s.dropTop).run = s.run := rfl
@[simp] theorem State.dropTop_params : (s.dropTop).params = s.params := rfl
@[simp] theorem State.dropTop_flushes : (s.dropTop).flushes = s.flushes := rfl
@[simp] theorem State.dropTop_samples : (s.dropTop).samples = s.samples := rfl
@[simp] theorem State.dropTop_byte (k : Nat) : (s.dropTop).byte k = s.byte k := rfl
@[simp] theorem State.dropTop_reg (z : Nibble) : (s.dropTop).reg z = s.reg z := rfl
@[simp] theorem State.dropTop_pixel (i : Fin 64) (j : Fin 32) : (s.dropTop).pixel i j = s.pixel i j := rfl
@[simp] theorem State.dropTop_base : (s.dropTop).base = s.base := rfl
@[simp] theorem State.dropTop_keyPressed (z : Nibble) : (s.dropTop).keyPressed z = s.keyPressed z := rfl
@[simp] theorem State.dropTop_regsUpTo (z : Nibble) : (s.dropTop).regsUpTo z = s.regsUpTo z := rfl

@[simp] theorem State.setFb_mem (g : FrameBuffer) : (s.setFb g).mem = s.mem := rfl
@[simp] theorem State.setFb_v (g : FrameBuffer) : (s.setFb g).v = s.v := rfl
@[simp] theorem State.setFb_idx (g : FrameBuffer) : (s.setFb g).idx = s.idx := rfl
@[simp] theorem State.setFb_pc (g : FrameBuffer) : (s.setFb g).pc = s.pc := rfl
@[simp] theorem State.setFb_stack (g : FrameBuffer) : (s.setFb g).stack = s.stack := rfl
@[simp] theorem State.setFb_fb (g : FrameBuffer) : (s.setFb g).fb = g := rfl
@[simp] theorem State.setFb_dt (g : FrameBuffer) : (s.setFb g).dt = s.dt := rfl
@[simp] theorem State.setFb_st (g : FrameBuffer) : (s.setFb g).st = s.st := rfl
@[simp] theorem State.setFb_halted (g : FrameBuffer) : (s.setFb g).halted = s.halted := rfl
@[simp] theorem State.setFb_faultCode (g : FrameBuffer) : (s.setFb g).faultCode = s.faultCode := rfl
@[simp] theorem State.setFb_faultInfo (g : FrameBuffer) : (s.setFb g).faultInfo = s.faultInfo := rfl
@[simp] theorem State.setFb_keys (g : FrameBuffer) : (s.setFb g).keys = s.keys := rfl
@[simp] theorem State.setFb_rnd (g : FrameBuffer) : (s.setFb g).rnd = s.rnd := rfl
@[simp] theorem State.setFb_run (g : FrameBuffer) : (s.setFb g).run = s.run := rfl
@[simp] theorem State.setFb_params (g : FrameBuffer) : (s.setFb g).params = s.params := rfl
@[simp] theorem State.setFb_flushes (g : FrameBuffer) : (s.setFb g).flushes = s.flushes := rfl
@[simp] theorem State.setFb_samples (g : FrameBuffer) : (s.setFb g).samples = s.samples := rfl
@[simp] theorem State.setFb_byte (g : FrameBuffer) (k : Nat) : (s.setFb g).byte k = s.byte k := rfl
@[simp] theorem State.setFb_reg (g : FrameBuffer) (z : Nibble) : (s.setFb g).reg z = s.reg z := rfl
@[simp] theorem State.setFb_base (g : FrameBuffer) : (s.setFb g).base = s.base := rfl
@[simp] theorem State.setFb_keyPressed (g : FrameBuffer) (z : Nibble) : (s.setFb g).keyPressed z = s.keyPressed z := rfl
@[simp] theorem State.setFb_stackFull (g : FrameBuffer) : (s.setFb g).stackFull = s.stackFull := rfl
@[simp] theorem State.setFb_regsUpTo (g : FrameBuffer) (z : Nibble) : (s.setFb g).regsUpTo z = s.regsUpTo z := rfl

@[simp] theorem State.flush_mem : (s.flush).mem = s.mem := rfl
@[simp] theorem State.flush_v : (s.flush).v = s.v := rfl
@[simp] theorem State.flush_idx : (s.flush).idx = s.idx := rfl
@[simp] theorem State.flush_pc : (s.flush).pc = s.pc := rfl
@[simp] theorem State.flush_stack : (s.flush).stack = s.stack := rfl
@[simp] theorem State.flush_fb : (s.flush).fb = s.fb := rfl
@[simp] theorem State.flush_dt : (s.flush).dt = s.dt := rfl
@[simp] theorem State.flush_st : (s.flush).st = s.st := rfl
@[simp] theorem State.flush_halted : (s.flush).halted = s.halted := rfl
@[simp] theorem State.flush_faultCode : (s.flush).faultCode = s.faultCode := rfl
@[simp] theorem State.flush_faultInfo : (s.flush).faultInfo = s.faultInfo := rfl
@[simp] theorem State.flush_keys : (s.flush).keys = s.keys := rfl
@[simp] theorem State.flush_rnd : (s.flush).rnd = s.rnd := rfl
@[simp] theorem State.flush_run : (s.flush).run = s.run := rfl
@[simp] theorem State.flush_params : (s.flush).params = s.params := rfl
@[simp] theorem State.flush_flushes : (s.flush).flushes = s.flushes + 1 := rfl
@[simp] theorem State.flush_samples : (s.flush).samples = s.samples := rfl
@[simp] theorem State.flush_byte (k : Nat) : (s.flush).byte k = s.byte k := rfl
@[simp] theorem State.flush_reg (z : Nibble) : (s.flush).reg z = s.reg z := rfl
@[simp] theorem State.flush_pixel (i : Fin 64) (j : Fin 32) : (s.flush).pixel i j = s.pixel i j := rfl
@[simp] theorem State.flush_base : (s.flush).base = s.base := rfl
@[simp] theorem State.flush_keyPressed (z : Nibble) : (s.flush).keyPressed z = s.keyPressed z := rfl
@[simp] theorem State.flush_stackFull : (s.flush).stackFull = s.stackFull := rfl
@[simp] theorem State.flush_regsUpTo (z : Nibble) : (s.flush).regsUpTo z = s.regsUpTo z := rfl

@[simp] theorem State.setDt_mem (b : Byte) : (s.setDt b).mem = s.mem := rfl
@[simp] theorem State.setDt_v (b : Byte) : (s.setDt b).v = s.v := rfl
@[simp] theorem State.setDt_idx (b : Byte) : (s.setDt b).idx = s.idx := rfl
@[simp] theorem State.setDt_pc (b : Byte) : (s.setDt b).pc = s.pc := rfl
@[simp] theorem State.setDt_stack (b : Byte) : (s.setDt b).stack = s.stack := rfl
@[simp] theorem State.setDt_fb (b : Byte) : (s.setDt b).fb = s.fb := rfl
@[simp] theorem State.setDt_dt (b : Byte) : (s.setDt b).dt = b := rfl
@[simp] theorem State.setDt_st (b : Byte) : (s.setDt b).st = s.st := rfl
@[simp] theorem State.setDt_halted (b : Byte) : (s.setDt b).halted = s.halted := rfl
@[simp] theorem State.setDt_faultCode (b : Byte) : (s.setDt b).faultCode = s.faultCode := rfl
@[simp] theorem State.setDt_faultInfo (b : Byte) : (s.setDt b).faultInfo = s.faultInfo := rfl
@[simp] theorem State.setDt_keys (b : Byte) : (s.setDt b).keys = s.keys := rfl
@[simp] theorem State.setDt_rnd (b : Byte) : (s.setDt b).rnd = s.rnd := rfl
@[simp] theorem State.setDt_run (b : Byte) : (s.setDt b).run = s.run := rfl
@[simp] theorem State.setDt_params (b : Byte) : (s.setDt b).params = s.params := rfl
@[simp] theorem State.setDt_flushes (b : Byte) : (s.setDt b).flushes = s.flushes := rfl
@[simp] theorem State.setDt_samples (b : Byte) : (s.setDt b).samples = s.samples := rfl
@[simp] theorem State.setDt_byte (b : Byte) (k : Nat) : (s.setDt b).byte k = s.byte k := rfl
@[simp] theorem State.setDt_reg (b : Byte) (z : Nibble) : (s.setDt b).reg z = s.reg z := rfl
@[simp] theorem State.setDt_pixel (b : Byte) (i : Fin 64) (j : Fin 32) : (s.setDt b).pixel i j = s.pixel i j := rfl
@[simp] theorem State.setDt_base (b : Byte) : (s.setDt b).base = s.base := rfl
@[simp] theorem State.setDt_keyPressed (b : Byte) (z : Nibble) : (s.setDt b).keyPressed z = s.keyPressed z := rfl
@[simp] theorem State.setDt_stackFull (b : Byte) : (s.setDt b).stackFull = s.stackFull := rfl
@[simp] theorem State.setDt_regsUpTo (b : Byte) (z : Nibble) : (s.setDt b).regsUpTo z = s.regsUpTo z := rfl

@[simp] theorem State.setSt_mem (b : Byte) : (s.setSt b).mem = s.mem := rfl
@[simp] theorem State.setSt_v (b : Byte) : (s.setSt b).v = s.v := rfl
@[simp] theorem State.setSt_idx (b : Byte) : (s.setSt b).idx = s.idx := rfl
@[simp] theorem State.setSt_pc (b : Byte) : (s.setSt b).pc = s.pc := rfl
@[simp] theorem State.setSt_stack (b : Byte) : (s.setSt b).stack = s.stack := rfl
@[simp] theorem State.setSt_fb (b : Byte) : (s.setSt b).fb = s.fb := rfl
@[simp] theorem State.setSt_dt (b : Byte) : (s.setSt b).dt = s.dt := rfl
@[simp] theorem State.setSt_st (b : Byte) : (s.setSt b).st = b := rfl
@[simp] theorem State.setSt_halted (b : Byte) : (s.setSt b).halted = s.halted := rfl
@[simp] theorem State.setSt_faultCode (b : Byte) : (s.setSt b).faultCode = s.faultCode := rfl
@[simp] theorem State.setSt_faultInfo (b : Byte) : (s.setSt b).faultInfo = s.faultInfo := rfl
@[simp] theorem State.setSt_keys (b : Byte) : (s.setSt b).keys = s.keys := rfl
@[simp] theorem State.setSt_rnd (b : Byte) : (s.setSt b).rnd = s.rnd := rfl
@[simp] theorem State.setSt_run (b : Byte) : (s.setSt b).run = s.run := rfl
@[simp] theorem State.setSt_params (b : Byte) : (s.setSt b).params = s.params := rfl
@[simp] theorem State.setSt_flushes (b : Byte) : (s.setSt b).flushes = s.flushes := rfl
@[simp] theorem State.setSt_samples (b : Byte) : (s.setSt b).samples = s.samples := rfl
@[simp] theorem State.setSt_byte (b : Byte) (k : Nat) : (s.setSt b).byte k = s.byte k := rfl
@[simp] theorem State.setSt_reg (b : Byte) (z : Nibble) : (s.setSt b).reg z = s.reg z := rfl
@[simp] theorem State.setSt_pixel (b : Byte) (i : Fin 64) (j : Fin 32) : (s.setSt b).pixel i j = s.pixel i j := rfl
@[simp] theorem State.setSt_base (b : Byte) : (s.setSt b).base = s.base := rfl
@[simp] theorem State.setSt_keyPressed (b : Byte) (z : Nibble) : (s.setSt b).keyPressed z = s.keyPressed z := rfl
@[simp] theorem State.setSt_stackFull (b : Byte) : (s.setSt b).stackFull = s.stackFull := rfl
@[simp] theorem State.setSt_regsUpTo (b : Byte) (z : Nibble) : (s.setSt b).regsUpTo z = s.regsUpTo z := rfl

@[simp] theorem State.enterFault_mem (f : CoreFault) : (s.enterFault f).mem = s.mem := rfl
@[simp] theorem State.enterFault_v (f : CoreFault) : (s.enterFault f).v = s.v := rfl
@[simp] theorem State.enterFault_idx (f : CoreFault) : (s.enterFault f).idx = s.idx := rfl
@[simp] theorem State.enterFault_pc (f : CoreFault) : (s.enterFault f).pc = s.pc := rfl
@[simp] theorem State.enterFault_stack (f : CoreFault) : (s.enterFault f).stack = s.stack := rfl
@[simp] theorem State.enterFault_fb (f : CoreFault) : (s.enterFault f).fb = s.fb := rfl
@[simp] theorem State.enterFault_dt (f : CoreFault) : (s.enterFault f).dt = s.dt := rfl
@[simp] theorem State.enterFault_st (f : CoreFault) : (s.enterFault f).st = s.st := rfl
@[simp] theorem State.enterFault_halted (f : CoreFault) : (s.enterFault f).halted = true := rfl
@[simp] theorem State.enterFault_faultCode (f : CoreFault) : (s.enterFault f).faultCode = f.code := rfl
@[simp] theorem State.enterFault_faultInfo (f : CoreFault) : (s.enterFault f).faultInfo = f.info := rfl
@[simp] theorem State.enterFault_keys (f : CoreFault) : (s.enterFault f).keys = s.keys := rfl
@[simp] theorem State.enterFault_rnd (f : CoreFault) : (s.enterFault f).rnd = s.rnd := rfl
@[simp] theorem State.enterFault_run (f : CoreFault) : (s.enterFault f).run = s.run := rfl
@[simp] theorem State.enterFault_params (f : CoreFault) : (s.enterFault f).params = s.params := rfl
@[simp] theorem State.enterFault_flushes (f : CoreFault) : (s.enterFault f).flushes = s.flushes := rfl
@[simp] theorem State.enterFault_samples (f : CoreFault) : (s.enterFault f).samples = s.samples := rfl
@[simp] theorem State.enterFault_byte (f : CoreFault) (k : Nat) : (s.enterFault f).byte k = s.byte k := rfl
@[simp] theorem State.enterFault_reg (f : CoreFault) (z : Nibble) : (s.enterFault f).reg z = s.reg z := rfl
@[simp] theorem State.enterFault_pixel (f : CoreFault) (i : Fin 64) (j : Fin 32) : (s.enterFault f).pixel i j = s.pixel i j := rfl
@[simp] theorem State.enterFault_base (f : CoreFault) : (s.enterFault f).base = s.base := rfl
@[simp] theorem State.enterFault_keyPressed (f : CoreFault) (z : Nibble) : (s.enterFault f).keyPressed z = s.keyPressed z := rfl
@[simp] theorem State.enterFault_stackFull (f : CoreFault) : (s.enterFault f).stackFull = s.stackFull := rfl
@[simp] theorem State.enterFault_regsUpTo (f : CoreFault) (z : Nibble) : (s.enterFault f).regsUpTo z = s.regsUpTo z := rfl

@[simp] theorem State.tickTimers_mem : (s.tickTimers).mem = s.mem := rfl
@[simp] theorem State.tickTimers_v : (s.tickTimers).v = s.v := rfl
@[simp] theorem State.tickTimers_idx : (s.tickTimers).idx = s.idx := rfl
@[simp] theorem State.tickTimers_pc : (s.tickTimers).pc = s.pc := rfl
@[simp] theorem State.tickTimers_stack : (s.tickTimers).stack = s.stack := rfl
@[simp] theorem State.tickTimers_fb : (s.tickTimers).fb = s.fb := rfl
@[simp] theorem State.tickTimers_dt : (s.tickTimers).dt = countDown s.dt := rfl
@[simp] theorem State.tickTimers_st : (s.tickTimers).st = countDown s.st := rfl
@[simp] theorem State.tickTimers_halted : (s.tickTimers).halted = s.halted := rfl
@[simp] theorem State.tickTimers_faultCode : (s.tickTimers).faultCode = s.faultCode := rfl
@[simp] theorem State.tickTimers_faultInfo : (s.tickTimers).faultInfo = s.faultInfo := rfl
@[simp] theorem State.tickTimers_keys : (s.tickTimers).keys = s.keys := rfl
@[simp] theorem State.tickTimers_rnd : (s.tickTimers).rnd = s.rnd := rfl
@[simp] theorem State.tickTimers_run : (s.tickTimers).run = s.run := rfl
@[simp] theorem State.tickTimers_params : (s.tickTimers).params = s.params := rfl
@[simp] theorem State.tickTimers_flushes : (s.tickTimers).flushes = s.flushes := rfl
@[simp] theorem State.tickTimers_samples : (s.tickTimers).samples = s.samples := rfl
@[simp] theorem State.tickTimers_byte (k : Nat) : (s.tickTimers).byte k = s.byte k := rfl
@[simp] theorem State.tickTimers_reg (z : Nibble) : (s.tickTimers).reg z = s.reg z := rfl
@[simp] theorem State.tickTimers_pixel (i : Fin 64) (j : Fin 32) : (s.tickTimers).pixel i j = s.pixel i j := rfl
@[simp] theorem State.tickTimers_base : (s.tickTimers).base = s.base := rfl
@[simp] theorem State.tickTimers_keyPressed (z : Nibble) : (s.tickTimers).keyPressed z = s.keyPressed z := rfl
@[simp] theorem State.tickTimers_stackFull : (s.tickTimers).stackFull = s.stackFull := rfl
@[simp] theorem State.tickTimers_regsUpTo (z : Nibble) : (s.tickTimers).regsUpTo z = s.regsUpTo z := rfl

@[simp] theorem State.freshKeys_mem : (s.freshKeys).mem = s.mem := rfl
@[simp] theorem State.freshKeys_v : (s.freshKeys).v = s.v := rfl
@[simp] theorem State.freshKeys_idx : (s.freshKeys).idx = s.idx := rfl
@[simp] theorem State.freshKeys_pc : (s.freshKeys).pc = s.pc := rfl
@[simp] theorem State.freshKeys_stack : (s.freshKeys).stack = s.stack := rfl
@[simp] theorem State.freshKeys_fb : (s.freshKeys).fb = s.fb := rfl
@[simp] theorem State.freshKeys_dt : (s.freshKeys).dt = s.dt := rfl
@[simp] theorem State.freshKeys_st : (s.freshKeys).st = s.st := rfl
@[simp] theorem State.freshKeys_halted : (s.freshKeys).halted = s.halted := rfl
@[simp] theorem State.freshKeys_faultCode : (s.freshKeys).faultCode = s.faultCode := rfl
@[simp] theorem State.freshKeys_faultInfo : (s.freshKeys).faultInfo = s.faultInfo := rfl
@[simp] theorem State.freshKeys_keys : (s.freshKeys).keys = Config.keysInput s.samples := rfl
@[simp] theorem State.freshKeys_rnd : (s.freshKeys).rnd = s.rnd := rfl
@[simp] theorem State.freshKeys_run : (s.freshKeys).run = s.run := rfl
@[simp] theorem State.freshKeys_params : (s.freshKeys).params = s.params := rfl
@[simp] theorem State.freshKeys_flushes : (s.freshKeys).flushes = s.flushes := rfl
@[simp] theorem State.freshKeys_samples : (s.freshKeys).samples = s.samples + 1 := rfl
@[simp] theorem State.freshKeys_byte (k : Nat) : (s.freshKeys).byte k = s.byte k := rfl
@[simp] theorem State.freshKeys_reg (z : Nibble) : (s.freshKeys).reg z = s.reg z := rfl
@[simp] theorem State.freshKeys_pixel (i : Fin 64) (j : Fin 32) : (s.freshKeys).pixel i j = s.pixel i j := rfl
@[simp] theorem State.freshKeys_base : (s.freshKeys).base = s.base := rfl
@[simp] theorem State.freshKeys_stackFull : (s.freshKeys).stackFull = s.stackFull := rfl
@[simp] theorem State.freshKeys_regsUpTo (z : Nibble) : (s.freshKeys).regsUpTo z = s.regsUpTo z := rfl

@[simp] theorem State.freshRnd_mem : (s.freshRnd).mem = s.mem := rfl
@[simp] theorem State.freshRnd_v : (s.freshRnd).v = s.v := rfl
@[simp] theorem State.freshRnd_idx : (s.freshRnd).idx = s.idx := rfl
@[simp] theorem State.freshRnd_pc : (s.freshRnd).pc = s.pc := rfl
@[simp] theorem State.freshRnd_stack : (s.freshRnd).stack = s.stack := rfl
@[simp] theorem State.freshRnd_fb : (s.freshRnd).fb = s.fb := rfl
@[simp] theorem State.freshRnd_dt : (s.freshRnd).dt = s.dt := rfl
@[simp] theorem State.freshRnd_st : (s.freshRnd).st = s.st := rfl
@[simp] theorem State.freshRnd_halted : (s.freshRnd).halted = s.halted := rfl
@[simp] theorem State.freshRnd_faultCode : (s.freshRnd).faultCode = s.faultCode := rfl
@[simp] theorem State.freshRnd_faultInfo : (s.freshRnd).faultInfo = s.faultInfo := rfl
@[simp] theorem State.freshRnd_keys : (s.freshRnd).keys = s.keys := rfl
@[simp] theorem State.freshRnd_rnd : (s.freshRnd).rnd = Config.rndInput s.samples := rfl
@[simp] theorem State.freshRnd_run : (s.freshRnd).run = s.run := rfl
@[simp] theorem State.freshRnd_params : (s.freshRnd).params = s.params := rfl
@[simp] theorem State.freshRnd_flushes : (s.freshRnd).flushes = s.flushes := rfl
@[simp] theorem State.freshRnd_samples : (s.freshRnd).samples = s.samples + 1 := rfl
@[simp] theorem State.freshRnd_byte (k : Nat) : (s.freshRnd).byte k = s.byte k := rfl
@[simp] theorem State.freshRnd_reg (z : Nibble) : (s.freshRnd).reg z = s.reg z := rfl
@[simp] theorem State.freshRnd_pixel (i : Fin 64) (j : Fin 32) : (s.freshRnd).pixel i j = s.pixel i j := rfl
@[simp] theorem State.freshRnd_base : (s.freshRnd).base = s.base := rfl
@[simp] theorem State.freshRnd_keyPressed (z : Nibble) : (s.freshRnd).keyPressed z = s.keyPressed z := rfl
@[simp] theorem State.freshRnd_stackFull : (s.freshRnd).stackFull = s.stackFull := rfl
@[simp] theorem State.freshRnd_regsUpTo (z : Nibble) : (s.freshRnd).regsUpTo z = s.regsUpTo z := rfl

@[simp] theorem State.setFlagThenReg_mem (c : Bool) (x : Nibble) (r : Byte) : (s.setFlagThenReg c x r).mem = s.mem := rfl
@[simp] theorem State.setFlagThenReg_idx (c : Bool) (x : Nibble) (r : Byte) : (s.setFlagThenReg c x r).idx = s.idx := rfl
@[simp] theorem State.setFlagThenReg_pc (c : Bool) (x : Nibble) (r : Byte) : (s.setFlagThenReg c x r).pc = s.pc := rfl
@[simp] theorem State.setFlagThenReg_stack (c : Bool) (x : Nibble) (r : Byte) : (s.setFlagThenReg c x r).stack = s.stack := rfl
@[simp] theorem State.setFlagThenReg_fb (c : Bool) (x : Nibble) (r : Byte) : (s.setFlagThenReg c x r).fb = s.fb := rfl
@[simp] theorem State.setFlagThenReg_dt (c : Bool) (x : Nibble) (r : Byte) : (s.setFlagThenReg c x r).dt = s.dt := rfl
@[simp] theorem State.setFlagThenReg_st (c : Bool) (x : Nibble) (r : Byte) : (s.setFlagThenReg c x r).st = s.st := rfl
@[simp] theorem State.setFlagThenReg_halted (c : Bool) (x : Nibble) (r : Byte) : (s.setFlagThenReg c x r).halted = s.halted := rfl
@[simp] theorem State.setFlagThenReg_faultCode (c : Bool) (x : Nibble) (r : Byte) : (s.setFlagThenReg c x r).faultCode = s.faultCode := rfl
@[simp] theorem State.setFlagThenReg_faultInfo (c : Bool) (x : Nibble) (r : Byte) : (s.setFlagThenReg c x r).faultInfo = s.faultInfo := rfl
@[simp] theorem State.setFlagThenReg_keys (c : Bool) (x : Nibble) (r : Byte) : (s.setFlagThenReg c x r).keys = s.keys := rfl
@[simp] theorem State.setFlagThenReg_rnd (c : Bool) (x : Nibble) (r : Byte) : (s.setFlagThenReg c x r).rnd = s.rnd := rfl
@[simp] theorem State.setFlagThenReg_run (c : Bool) (x : Nibble) (r : Byte) : (s.setFlagThenReg c x r).run = s.run := rfl
@[simp] theorem State.setFlagThenReg_params (c : Bool) (x : Nibble) (r : Byte) : (s.setFlagThenReg c x r).params = s.params := rfl
@[simp] theorem State.setFlagThenReg_flushes (c : Bool) (x : Nibble) (r : Byte) : (s.setFlagThenReg c x r).flushes = s.flushes := rfl
@[simp] theorem State.setFlagThenReg_samples (c : Bool) (x : Nibble) (r : Byte) : (s.setFlagThenReg c x r).samples = s.samples := rfl
@[simp] theorem State.setFlagThenReg_byte (c : Bool) (x : Nibble) (r : Byte) (k : Nat) : (s.setFlagThenReg c x r).byte k = s.byte k := rfl
@[simp] theorem State.setFlagThenReg_pixel (c : Bool) (x : Nibble) (r : Byte) (i : Fin 64) (j : Fin 32) : (s.setFlagThenReg c x r).pixel i j = s.pixel i j := rfl
@[simp] theorem State.setFlagThenReg_base (c : Bool) (x : Nibble) (r : Byte) : (s.setFlagThenReg c x r).base = s.base := rfl
@[simp] theorem State.setFlagThenReg_keyPressed (c : Bool) (x : Nibble) (r : Byte) (z : Nibble) : (s.setFlagThenReg c x r).keyPressed z = s.keyPressed z := rfl
@[simp] theorem State.setFlagThenReg_stackFull (c : Bool) (x : Nibble) (r : Byte) : (s.setFlagThenReg c x r).stackFull = s.stackFull := rfl

end Sys2Proof.Machine
end

