-- ==== Sys2Proof/Laws/Memory.lean ====
section
/-! SUPPORT. What reading and writing memory do, once and for all: a read after a write, the canonical form, runs of bytes, and
ROM loads. -/

namespace Sys2Proof.Machine

variable {font : Vector Byte 80}

theorem Memory.read_put (m : Memory) (a k : Nat) (b : Byte) :
    Memory.read font (Memory.put m a b) k = if k = a then b else Memory.read font m k := by
  induction m with
  | nil => simp [Memory.put, Memory.read, eq_comm]
  | cons c m ih =>
    unfold Memory.put
    split
    · simp [Memory.read, eq_comm]
    · split
      · rename_i h
        by_cases hk : k = a
        · simp [Memory.read, hk]
        · simp [Memory.read, ← h, hk, Ne.symm hk]
      · rename_i h
        by_cases hk : k = a
        · subst hk
          simp [Memory.read, ih, Ne.symm h]
        · simp [Memory.read, ih, hk]

theorem Memory.read_erase (m : Memory) (a k : Nat) :
    Memory.read font (Memory.erase m a) k = if k = a then Memory.unlisted font a else Memory.read font m k := by
  induction m with
  | nil => by_cases hk : k = a <;> simp [Memory.erase, Memory.read, hk]
  | cons c m ih =>
    unfold Memory.erase
    by_cases hc : c.1 = a <;> by_cases hk : k = a <;> simp_all [Memory.read]
    intro h
    exact absurd h (Ne.symm hk)

/-- R43, R44: a read gives the byte last written there, and a write leaves every other address alone. -/
theorem Memory.read_write (m : Memory) (a k : Nat) (b : Byte) :
    Memory.read font (Memory.write font m a b) k = if k = a then b else Memory.read font m k := by
  unfold Memory.write
  split
  · rename_i h
    rw [Memory.read_erase, h]
  · exact Memory.read_put m a k b

theorem Memory.wfFrom_mono {m : Memory} {lo hi : Nat} (h : Memory.wfFrom font hi m) (hle : lo ≤ hi) :
    Memory.wfFrom font lo m := by
  cases m with
  | nil => rfl
  | cons c m =>
    simp only [Memory.wfFrom, Bool.and_eq_true, decide_eq_true_eq] at h ⊢
    exact ⟨⟨le_trans hle h.1.1, h.1.2⟩, h.2⟩

theorem Memory.wfFrom_put {m : Memory} {lo a : Nat} {b : Byte} (h : Memory.wfFrom font lo m) (hlo : lo ≤ a)
    (ha : a < Config.memSize) (hb : b ≠ Memory.unlisted font a) : Memory.wfFrom font lo (Memory.put m a b) := by
  induction m generalizing lo with
  | nil => simp [Memory.put, Memory.wfFrom, hlo, ha, hb]
  | cons c m ih =>
    simp only [Memory.wfFrom, Bool.and_eq_true, decide_eq_true_eq] at h
    unfold Memory.put
    split
    · rename_i hlt
      simp only [Memory.wfFrom, Bool.and_eq_true, decide_eq_true_eq]
      exact ⟨⟨hlo, ha, hb⟩, ⟨hlt, h.1.2⟩, h.2⟩
    · split
      · rename_i heq
        simp only [Memory.wfFrom, Bool.and_eq_true, decide_eq_true_eq]
        exact ⟨⟨hlo, ha, hb⟩, heq ▸ h.2⟩
      · simp only [Memory.wfFrom, Bool.and_eq_true, decide_eq_true_eq]
        exact ⟨h.1, ih h.2 (by omega)⟩

theorem Memory.wfFrom_erase {m : Memory} {lo : Nat} (a : Nat) (h : Memory.wfFrom font lo m) :
    Memory.wfFrom font lo (Memory.erase m a) := by
  induction m generalizing lo with
  | nil => rfl
  | cons c m ih =>
    simp only [Memory.wfFrom, Bool.and_eq_true, decide_eq_true_eq] at h
    unfold Memory.erase
    split
    · exact Memory.wfFrom_mono (ih h.2) (by omega)
    · simp only [Memory.wfFrom, Bool.and_eq_true, decide_eq_true_eq]
      exact ⟨h.1, ih h.2⟩

/-- A write inside `MEM` keeps the canonical form. -/
theorem Memory.wf_write {m : Memory} {a : Nat} {b : Byte} (h : Memory.wf font m) (ha : a < Config.memSize) :
    Memory.wf font (Memory.write font m a b) := by
  unfold Memory.wf Memory.write at *
  split
  · exact Memory.wfFrom_erase a h
  · rename_i hb
    exact Memory.wfFrom_put h (Nat.zero_le a) ha hb

/-- The reset memory is in canonical form. -/
theorem Memory.wf_nil : Memory.wf font [] := rfl

/-- Below the first address a canonical memory may list, every byte reads as unlisted. -/
theorem Memory.read_of_lt {m : Memory} {lo k : Nat} (h : Memory.wfFrom font lo m) (hk : k < lo) :
    Memory.read font m k = Memory.unlisted font k := by
  induction m generalizing lo with
  | nil => rfl
  | cons c m ih =>
    simp only [Memory.wfFrom, Bool.and_eq_true, decide_eq_true_eq] at h
    have hc : c.1 ≠ k := by omega
    simp only [Memory.read, hc, if_false]
    exact ih h.2 (by omega)

theorem State.byte_setByte (s : State) (a k : Nat) (b : Byte) :
    (s.setByte a b).byte k = if k = a then b else s.byte k :=
  Memory.read_write s.mem a k b

/-! ## Runs of bytes (R49, R55) -/

/-- Everything a stored run leaves alone. -/
theorem State.storeRun_frame (s : State) (a : Nat) (bs : List Byte) :
    s.storeRun a bs = { s with mem := (s.storeRun a bs).mem } := by
  induction bs generalizing s a with
  | nil => rfl
  | cons b bs ih =>
    conv_lhs => unfold State.storeRun
    rw [ih]
    rfl

section
variable (s : State) (a : Nat) (bs : List Byte)

@[simp] theorem State.storeRun_v : (s.storeRun a bs).v = s.v := by rw [State.storeRun_frame]
@[simp] theorem State.storeRun_idx : (s.storeRun a bs).idx = s.idx := by rw [State.storeRun_frame]
@[simp] theorem State.storeRun_pc : (s.storeRun a bs).pc = s.pc := by rw [State.storeRun_frame]
@[simp] theorem State.storeRun_stack : (s.storeRun a bs).stack = s.stack := by rw [State.storeRun_frame]
@[simp] theorem State.storeRun_fb : (s.storeRun a bs).fb = s.fb := by rw [State.storeRun_frame]
@[simp] theorem State.storeRun_dt : (s.storeRun a bs).dt = s.dt := by rw [State.storeRun_frame]
@[simp] theorem State.storeRun_st : (s.storeRun a bs).st = s.st := by rw [State.storeRun_frame]
@[simp] theorem State.storeRun_halted : (s.storeRun a bs).halted = s.halted := by rw [State.storeRun_frame]
@[simp] theorem State.storeRun_faultCode : (s.storeRun a bs).faultCode = s.faultCode := by rw [State.storeRun_frame]
@[simp] theorem State.storeRun_faultInfo : (s.storeRun a bs).faultInfo = s.faultInfo := by rw [State.storeRun_frame]
@[simp] theorem State.storeRun_keys : (s.storeRun a bs).keys = s.keys := by rw [State.storeRun_frame]
@[simp] theorem State.storeRun_rnd : (s.storeRun a bs).rnd = s.rnd := by rw [State.storeRun_frame]
@[simp] theorem State.storeRun_run : (s.storeRun a bs).run = s.run := by rw [State.storeRun_frame]
@[simp] theorem State.storeRun_params : (s.storeRun a bs).params = s.params := by rw [State.storeRun_frame]
@[simp] theorem State.storeRun_flushes : (s.storeRun a bs).flushes = s.flushes := by rw [State.storeRun_frame]
@[simp] theorem State.storeRun_samples : (s.storeRun a bs).samples = s.samples := by rw [State.storeRun_frame]
@[simp] theorem State.storeRun_reg (z : Nibble) : (s.storeRun a bs).reg z = s.reg z := by rw [State.storeRun_frame]; rfl
@[simp] theorem State.storeRun_pixel (i : Fin 64) (j : Fin 32) : (s.storeRun a bs).pixel i j = s.pixel i j := by
  rw [State.storeRun_frame]; rfl
end

/-- Every byte after a stored run: the run's byte inside it, the old byte outside. -/
theorem State.byte_storeRun (s : State) (a k : Nat) (bs : List Byte) :
    (s.storeRun a bs).byte k =
      if a ≤ k ∧ k < a + bs.length then bs.getD (k - a) 0#8 else s.byte k := by
  induction bs generalizing s a with
  | nil => simp only [State.storeRun, List.length_nil]; rw [if_neg (by omega)]
  | cons b bs ih =>
    simp only [State.storeRun, ih, State.byte_setByte, List.length_cons]
    rcases lt_trichotomy k a with h | h | h
    · simp (disch := omega) only [if_neg]
    · subst h
      simp (disch := omega) only [if_neg, if_pos, Nat.sub_self, List.getD_cons_zero, if_true]
    · by_cases hk : k < a + (bs.length + 1)
      · simp (disch := omega) only [if_pos]
        obtain ⟨d, rfl⟩ : ∃ d, k = a + 1 + d := ⟨k - (a + 1), by omega⟩
        simp [show a + 1 + d - a = d + 1 by omega]
      · simp (disch := omega) only [if_neg]

/-- A stored run inside `MEM` keeps the canonical form. -/
theorem State.wf_storeRun {s : State} {a : Nat} {bs : List Byte} (h : Memory.wf s.params.font s.mem)
    (hle : a + bs.length ≤ Config.memSize) : Memory.wf s.params.font (s.storeRun a bs).mem := by
  induction bs generalizing s a with
  | nil => exact h
  | cons b bs ih =>
    simp only [List.length_cons] at hle
    exact ih (s := s.setByte a b) (Memory.wf_write h (by omega)) (by omega)

/-- The bytes a run reads. -/
theorem State.readRun_eq (s : State) (a len : Nat) :
    s.readRun a len = (List.range len).map fun k => s.byte (a + k) := by
  induction len generalizing a with
  | zero => rfl
  | succ n ih =>
    rw [State.readRun, ih, List.range_succ_eq_map]
    simp [Nat.add_assoc, Nat.add_comm 1]

@[simp] theorem State.length_readRun (s : State) (a len : Nat) : (s.readRun a len).length = len := by
  simp [State.readRun_eq]

@[simp] theorem State.length_regsUpTo (s : State) (x : Nibble) : (s.regsUpTo x).length = x.toNat + 1 := by
  simp [State.regsUpTo]

@[simp] theorem length_bcdDigits (a : Byte) : (bcdDigits a).length = 3 := rfl

/-- What load_rom answers (R195): all of the ROM or nothing. -/
theorem State.loadRom_cases (s : State) (bytes : List Byte) :
    (bytes.length ≤ Config.maxRom ∧ s.loadRom bytes = (s.storeRun Config.progBase bytes, false)) ∨
      (Config.maxRom < bytes.length ∧ s.loadRom bytes = (s, true)) := by
  unfold State.loadRom Config.memSize Config.progBase Config.maxRom
  split
  · exact .inr ⟨by omega, rfl⟩
  · exact .inl ⟨by omega, rfl⟩

end Sys2Proof.Machine
end

