-- ==== Sys2Proof/Laws/Display.lean ====
section
/-! SUPPORT. What drawing a sprite does (R131), cell by cell: `spriteBit` is the bit that covers a cell, and the loop of
`drawRows` XORs it in and notes a collision. -/

namespace Sys2Proof.Machine

theorem FrameBuffer.cell_setCell (fb : FrameBuffer) (x x' : Fin 64) (y y' : Fin 32) (b : Bool) :
    FrameBuffer.cell (FrameBuffer.setCell fb x y b) x' y' = if x' = x ∧ y' = y then b else FrameBuffer.cell fb x' y' := by
  unfold FrameBuffer.cell FrameBuffer.setCell
  by_cases hy : y' = y
  · subst hy
    by_cases hx : x' = x
    · subst hx; simp
    · have : x.val ≠ x'.val := fun h => hx (Fin.ext h.symm)
      simp [hx, this]
  · have : y.val ≠ y'.val := fun h => hy (Fin.ext h.symm)
    simp [hy, this]

@[simp] theorem FrameBuffer.cell_clear (x : Fin 64) (y : Fin 32) : FrameBuffer.cell FrameBuffer.clear x y = false := by
  simp [FrameBuffer.cell, FrameBuffer.clear]

/-- Two framebuffers with the same cells are equal. -/
theorem FrameBuffer.ext_cell {f g : FrameBuffer} (h : ∀ x y, FrameBuffer.cell f x y = FrameBuffer.cell g x y) : f = g := by
  refine Vector.ext fun j hj => Vector.ext fun i hi => ?_
  exact h ⟨i, hi⟩ ⟨j, hj⟩

/-- The bit of a sprite that covers the cell (px, py), for a sprite with origin (x0, y0); false outside the sprite. -/
def spriteBit (rows : List Byte) (x0 y0 px py : Nat) : Bool :=
  decide (x0 ≤ px ∧ px < x0 + 8 ∧ y0 ≤ py ∧ py < y0 + rows.length) &&
    (rows.getD (py - y0) 0#8).getLsbD (7 - (px - x0))

theorem plot_cell (bit : Bool) (px py : Nat) (acc : FrameBuffer × Bool) (x : Fin 64) (y : Fin 32) :
    FrameBuffer.cell (plot bit px py acc).1 x y =
      (FrameBuffer.cell acc.1 x y ^^ (decide (px = x.val ∧ py = y.val) && bit)) := by
  unfold plot
  split
  · rename_i h
    simp only [FrameBuffer.cell_setCell]
    by_cases hxy : x = ⟨px, h.1⟩ ∧ y = ⟨py, h.2⟩
    · obtain ⟨rfl, rfl⟩ := hxy; simp
    · rw [if_neg hxy]
      have : ¬(px = x.val ∧ py = y.val) := fun e => hxy ⟨Fin.ext e.1.symm, Fin.ext e.2.symm⟩
      simp [this]
  · rename_i h
    have : ¬(px = x.val ∧ py = y.val) := fun e => h ⟨e.1 ▸ x.isLt, e.2 ▸ y.isLt⟩
    simp [this]

theorem plot_collision (bit : Bool) (px py : Nat) (acc : FrameBuffer × Bool) :
    (plot bit px py acc).2 = true ↔
      acc.2 = true ∨ ∃ (x : Fin 64) (y : Fin 32), px = x.val ∧ py = y.val ∧ bit = true ∧
        FrameBuffer.cell acc.1 x y = true := by
  unfold plot
  split
  · rename_i h
    simp only [Bool.or_eq_true, Bool.and_eq_true]
    constructor
    · rintro (h' | h')
      · exact .inl h'
      · exact .inr ⟨⟨px, h.1⟩, ⟨py, h.2⟩, rfl, rfl, h'⟩
    · rintro (h' | ⟨x, y, rfl, rfl, h'⟩)
      · exact .inl h'
      · exact .inr h'
  · rename_i h
    constructor
    · exact .inl
    · rintro (h' | ⟨x, y, rfl, rfl, -⟩)
      · exact h'
      · exact absurd ⟨x.isLt, y.isLt⟩ h

/-- The bits of one row that `drawBits` still has to draw, as a function of the cell. -/
def rowBit (row : Byte) (left k px py : Nat) (x y : Nat) : Bool :=
  decide (py = y ∧ px ≤ x ∧ x < px + left) && row.getLsbD (7 - (k + (x - px)))

theorem drawBits_cell (row : Byte) (py left k px : Nat) (acc : FrameBuffer × Bool) (x : Fin 64) (y : Fin 32) :
    FrameBuffer.cell (drawBits row py left k px acc).1 x y =
      (FrameBuffer.cell acc.1 x y ^^ rowBit row left k px py x.val y.val) := by
  induction left generalizing k px acc with
  | zero =>
    have : ¬(py = y.val ∧ px ≤ x.val ∧ x.val < px + 0) := by omega
    rw [drawBits, rowBit, decide_eq_false this]
    simp
  | succ n ih =>
    rw [drawBits, ih, plot_cell, Bool.xor_assoc]
    congr 1
    unfold rowBit
    rcases lt_trichotomy x.val px with h | h | h
    · rw [decide_eq_false (by omega), decide_eq_false (by omega), decide_eq_false (by omega)]; simp
    · rw [decide_eq_false (p := py = y.val ∧ px + 1 ≤ x.val ∧ _) (by omega)]
      simp [h]
    · rw [decide_eq_false (p := px = x.val ∧ py = y.val) (by omega)]
      simp only [Bool.false_and, Bool.false_xor]
      have e : (py = y.val ∧ px + 1 ≤ x.val ∧ x.val < px + 1 + n) ↔ (py = y.val ∧ px ≤ x.val ∧ x.val < px + (n + 1)) := by
        omega
      rw [show k + 1 + (x.val - (px + 1)) = k + (x.val - px) by omega, decide_eq_decide.mpr e]

theorem drawBits_collision (row : Byte) (py left k px : Nat) (acc : FrameBuffer × Bool) :
    (drawBits row py left k px acc).2 = true ↔
      acc.2 = true ∨ ∃ (x : Fin 64) (y : Fin 32), rowBit row left k px py x.val y.val = true ∧
        FrameBuffer.cell acc.1 x y = true := by
  induction left generalizing k px acc with
  | zero =>
    simp only [drawBits, rowBit]
    constructor
    · exact .inl
    · rintro (h | ⟨x, y, h, -⟩)
      · exact h
      · simp only [Bool.and_eq_true, decide_eq_true_eq] at h; omega
  | succ n ih =>
    rw [drawBits, ih, plot_collision]
    have hrow : ∀ (x : Fin 64) (y : Fin 32), rowBit row (n + 1) k px py x.val y.val = true ↔
        (px = x.val ∧ py = y.val ∧ row.getLsbD (7 - k) = true) ∨ rowBit row n (k + 1) (px + 1) py x.val y.val = true := by
      intro x y
      simp only [rowBit, Bool.and_eq_true, decide_eq_true_eq]
      constructor
      · rintro ⟨h, hb⟩
        rcases Nat.eq_or_lt_of_le h.2.1 with e | e
        · refine .inl ⟨e, h.1, ?_⟩
          simpa [e] using hb
        · refine .inr ⟨by omega, ?_⟩
          rwa [show k + 1 + (x.val - (px + 1)) = k + (x.val - px) by omega]
      · rintro (⟨h1, h2, hb⟩ | ⟨h, hb⟩)
        · refine ⟨by omega, ?_⟩
          simpa [h1] using hb
        · refine ⟨by omega, ?_⟩
          rwa [show k + (x.val - px) = k + 1 + (x.val - (px + 1)) by omega]
    constructor
    · rintro ((h | ⟨x, y, h1, h2, hb, hc⟩) | ⟨x, y, h, hc⟩)
      · exact .inl h
      · exact .inr ⟨x, y, (hrow x y).mpr (.inl ⟨h1, h2, hb⟩), hc⟩
      · have hne : ¬(px = x.val ∧ py = y.val) := by
          simp only [rowBit, Bool.and_eq_true, decide_eq_true_eq] at h; omega
        refine .inr ⟨x, y, (hrow x y).mpr (.inr h), ?_⟩
        simpa [plot_cell, hne] using hc
    · rintro (h | ⟨x, y, h, hc⟩)
      · exact .inl (.inl h)
      · rcases (hrow x y).mp h with ⟨h1, h2, hb⟩ | h'
        · exact .inl (.inr ⟨x, y, h1, h2, hb, hc⟩)
        · have hne : ¬(px = x.val ∧ py = y.val) := by
            simp only [rowBit, Bool.and_eq_true, decide_eq_true_eq] at h'; omega
          refine .inr ⟨x, y, h', ?_⟩
          simpa [plot_cell, hne] using hc

/-- One row of 8 bits is the first row of the sprite. -/
theorem spriteBit_cons (row : Byte) (rows : List Byte) (x0 py x y : Nat) :
    spriteBit (row :: rows) x0 py x y = (rowBit row 8 0 x0 py x y || spriteBit rows x0 (py + 1) x y) := by
  unfold spriteBit rowBit
  rcases lt_trichotomy y py with h | h | h
  · rw [decide_eq_false (by omega), decide_eq_false (by omega), decide_eq_false (by omega)]; simp
  · subst h
    rw [decide_eq_false (p := x0 ≤ x ∧ x < x0 + 8 ∧ y + 1 ≤ y ∧ y < y + 1 + rows.length) (by omega)]
    have e : (x0 ≤ x ∧ x < x0 + 8 ∧ y ≤ y ∧ y < y + (row :: rows).length) ↔ (y = y ∧ x0 ≤ x ∧ x < x0 + 8) := by
      rw [List.length_cons]
      exact ⟨fun h => ⟨rfl, h.1, h.2.1⟩, fun h => ⟨h.2.1, h.2.2, le_refl y, by omega⟩⟩
    simp only [e]
    simp
  · rw [decide_eq_false (p := py = y ∧ _) (by omega)]
    have e : (x0 ≤ x ∧ x < x0 + 8 ∧ py ≤ y ∧ y < py + (row :: rows).length) ↔
        (x0 ≤ x ∧ x < x0 + 8 ∧ py + 1 ≤ y ∧ y < py + 1 + rows.length) := by
      simp only [List.length_cons]; omega
    simp only [e]
    rw [show y - py = (y - (py + 1)) + 1 by omega]
    simp

/-- A row and the rows below it cover different cells. -/
theorem rowBit_excl {row : Byte} {rows : List Byte} {x0 py x y : Nat} (h : rowBit row 8 0 x0 py x y = true) :
    spriteBit rows x0 (py + 1) x y = false := by
  simp only [rowBit, Bool.and_eq_true, decide_eq_true_eq] at h
  unfold spriteBit
  rw [decide_eq_false (by omega)]
  simp

/-- R131: after drawing, each cell is its old value XOR the sprite bit that covers it. -/
theorem drawRows_cell (x0 : Nat) (rows : List Byte) (y0 : Nat) (acc : FrameBuffer × Bool) (x : Fin 64) (y : Fin 32) :
    FrameBuffer.cell (drawRows x0 rows y0 acc).1 x y =
      (FrameBuffer.cell acc.1 x y ^^ spriteBit rows x0 y0 x.val y.val) := by
  induction rows generalizing y0 acc with
  | nil =>
    have : ¬(x0 ≤ x.val ∧ x.val < x0 + 8 ∧ y0 ≤ y.val ∧ y.val < y0 + ([] : List Byte).length) := by
      simp only [List.length_nil]; omega
    simp only [drawRows, spriteBit]
    rw [decide_eq_false this]; simp
  | cons row rows ih =>
    rw [drawRows, ih, drawBits_cell, Bool.xor_assoc, spriteBit_cons]
    congr 1
    cases h : rowBit row 8 0 x0 y0 x.val y.val
    · simp
    · simp [rowBit_excl h]

/-- R131: the collision flag is set exactly when a sprite bit covers a cell that was on. -/
theorem drawRows_collision (x0 : Nat) (rows : List Byte) (y0 : Nat) (acc : FrameBuffer × Bool) :
    (drawRows x0 rows y0 acc).2 = true ↔
      acc.2 = true ∨ ∃ (x : Fin 64) (y : Fin 32), spriteBit rows x0 y0 x.val y.val = true ∧
        FrameBuffer.cell acc.1 x y = true := by
  induction rows generalizing y0 acc with
  | nil =>
    constructor
    · exact .inl
    · rintro (h | ⟨x, y, h, -⟩)
      · exact h
      · simp only [spriteBit, Bool.and_eq_true, decide_eq_true_eq, List.length_nil] at h; omega
  | cons row rows ih =>
    rw [drawRows, ih, drawBits_collision]
    constructor
    · rintro ((h | ⟨x, y, h, hc⟩) | ⟨x, y, h, hc⟩)
      · exact .inl h
      · exact .inr ⟨x, y, by rw [spriteBit_cons, h]; rfl, hc⟩
      · have hr : rowBit row 8 0 x0 y0 x.val y.val = false := by
          by_contra hn
          rw [rowBit_excl (by simpa using hn)] at h
          exact absurd h (by simp)
        refine .inr ⟨x, y, by rw [spriteBit_cons, h, Bool.or_true], ?_⟩
        simpa [drawBits_cell, hr] using hc
    · rintro (h | ⟨x, y, h, hc⟩)
      · exact .inl (.inl h)
      · rw [spriteBit_cons] at h
        cases hr : rowBit row 8 0 x0 y0 x.val y.val
        · rw [hr, Bool.false_or] at h
          exact .inr ⟨x, y, h, by simpa [drawBits_cell, hr] using hc⟩
        · exact .inl (.inr ⟨x, y, hr, hc⟩)

end Sys2Proof.Machine
end

