-- ==== Sys2Proof/Laws/Encoding.lean ====
section
/-! SUPPORT. The fields of an encoded word are the operands placed in it, and a word is made of its fields (R61). -/

namespace Sys2Proof

@[simp] theorem fieldG_encodeA (g : Nibble) (nnn : Addr) : fieldG (encodeA g nnn) = g := by
  unfold fieldG encodeA
  ext k hk
  simp
  grind

@[simp] theorem fieldNNN_encodeA (g : Nibble) (nnn : Addr) : fieldNNN (encodeA g nnn) = nnn := by
  unfold fieldNNN encodeA
  ext k hk
  simp
  grind

@[simp] theorem fieldG_encodeXB (g x : Nibble) (nn : Byte) : fieldG (encodeXB g x nn) = g := by
  unfold fieldG encodeXB
  ext k hk
  simp
  grind

@[simp] theorem fieldX_encodeXB (g x : Nibble) (nn : Byte) : fieldX (encodeXB g x nn) = x := by
  unfold fieldX encodeXB
  ext k hk
  simp
  grind

@[simp] theorem fieldNN_encodeXB (g x : Nibble) (nn : Byte) : fieldNN (encodeXB g x nn) = nn := by
  unfold fieldNN encodeXB
  ext k hk
  simp
  grind

@[simp] theorem fieldG_encodeXY (g x y n : Nibble) : fieldG (encodeXY g x y n) = g := by
  unfold fieldG encodeXY
  ext k hk
  simp
  grind

@[simp] theorem fieldX_encodeXY (g x y n : Nibble) : fieldX (encodeXY g x y n) = x := by
  unfold fieldX encodeXY
  ext k hk
  simp
  grind

@[simp] theorem fieldY_encodeXY (g x y n : Nibble) : fieldY (encodeXY g x y n) = y := by
  unfold fieldY encodeXY
  ext k hk
  simp
  grind

@[simp] theorem fieldN_encodeXY (g x y n : Nibble) : fieldN (encodeXY g x y n) = n := by
  unfold fieldN encodeXY
  ext k hk
  simp
  grind

@[simp] theorem encodeA_fields (op : Word) : encodeA (fieldG op) (fieldNNN op) = op := by
  unfold encodeA fieldG fieldNNN
  ext k hk
  simp
  grind

@[simp] theorem encodeXB_fields (op : Word) : encodeXB (fieldG op) (fieldX op) (fieldNN op) = op := by
  unfold encodeXB fieldG fieldX fieldNN
  ext k hk
  simp
  grind

@[simp] theorem encodeXY_fields (op : Word) : encodeXY (fieldG op) (fieldX op) (fieldY op) (fieldN op) = op := by
  unfold encodeXY fieldG fieldX fieldY fieldN
  ext k hk
  simp
  grind

@[simp] theorem highByte_wordOfBytes (hi lo : Byte) : highByte (wordOfBytes hi lo) = hi := by
  unfold highByte wordOfBytes
  ext k hk
  simp
  grind

@[simp] theorem lowByte_wordOfBytes (hi lo : Byte) : lowByte (wordOfBytes hi lo) = lo := by
  unfold lowByte wordOfBytes
  ext k hk
  simp
  grind

@[simp] theorem wordOfBytes_bytes (op : Word) : wordOfBytes (highByte op) (lowByte op) = op := by
  unfold wordOfBytes highByte lowByte
  ext k hk
  simp
  grind

/-- A word decodes to an instruction exactly when its row is one (R64). -/
theorem decode_eq_ok {op : Word} {i : Instr} : decode op = .ok i ↔ decodeRow op = some i := by
  unfold decode
  cases decodeRow op <;> simp

/-- Every other word is refused under its own name (R66). -/
theorem decode_eq_error {op : Word} {e : DecodeError} :
    decode op = .error e ↔ decodeRow op = none ∧ e = .unrecognized op := by
  unfold decode
  cases decodeRow op <;> simp [eq_comm]

end Sys2Proof
end

