-- ==== Sys2Proof/Laws/Ops.lean ====
section
/-! SUPPORT. One lemma per shared operation of Machine/Ops.lean, Machine/Flags.lean and Machine/Step.lean that says all it can
do; proofs cite these and do not unfold the operations. -/

namespace Sys2Proof.Machine

variable (s : State)

/-! ## Registers -/

/-- A register after a write (R11). -/
theorem State.reg_setReg (x z : Nibble) (b : Byte) : (s.setReg x b).reg z = if z = x then b else s.reg z := by
  unfold State.reg State.setReg
  by_cases h : z = x
  · subst h; simp
  · have : x.toNat ≠ z.toNat := fun e => h (BitVec.eq_of_toNat_eq e.symm)
    simp [h, this]

@[simp] theorem State.reg_setReg_self (x : Nibble) (b : Byte) : (s.setReg x b).reg x = b := by
  simp [State.reg_setReg]

/-- VF first, then the result (R110): the result stays when the destination is VF. -/
theorem State.reg_setFlagThenReg (c : Bool) (x z : Nibble) (r : Byte) :
    (s.setFlagThenReg c x r).reg z = if z = x then r else if z = regF then flagByte c else s.reg z := by
  simp only [State.setFlagThenReg, State.reg_setReg]

/-- The registers LDM leaves (R147). -/
theorem State.reg_loadRegs (a : Nat) (x z : Nibble) :
    (s.loadRegs a x).reg z = if z.toNat ≤ x.toNat then s.byte (a + z.toNat) else s.reg z := by
  simp [State.reg, State.loadRegs]

/-- The k-th byte STM stores is V[k] (R146). -/
theorem State.getD_regsUpTo (x z : Nibble) (h : z.toNat ≤ x.toNat) : (s.regsUpTo x).getD z.toNat 0#8 = s.reg z := by
  have : z.toNat < x.toNat + 1 := by omega
  simp [State.regsUpTo, List.getD_eq_getElem?_getD, this]

/-- Two register files with the same registers are equal. -/
theorem State.v_ext {s t : State} (h : ∀ z, s.reg z = t.reg z) : s.v = t.v := by
  refine Vector.ext fun i hi => ?_
  have := h (BitVec.ofNat 4 i)
  simpa [State.reg, Nat.mod_eq_of_lt hi] using this

/-! ## The stack (R16, R17) -/

theorem State.stackFull_iff : s.stackFull = true ↔ ∃ d, s.params.stackDepth = some d ∧ d ≤ s.stack.length := by
  unfold State.stackFull
  cases s.params.stackDepth <;> simp

/-! ## Faults (R55, R166) -/

/-- A run is in range, or its fault is OutOfBounds with the lowest out-of-range address (R55). -/
theorem checkRun_cases (base len : Nat) :
    (base + len ≤ 4096 ∨ len = 0) ∧ checkRun base len = none ∨
      4096 < base + len ∧ len ≠ 0 ∧ checkRun base len = some (.outOfBounds (max base 4096)) := by
  unfold checkRun Config.memSize
  split <;> rename_i h
  · exact .inr ⟨by omega, by omega, rfl⟩
  · exact .inl ⟨by omega, rfl⟩

theorem checkRun_eq_none {base len : Nat} : checkRun base len = none ↔ base + len ≤ 4096 ∨ len = 0 := by
  rcases checkRun_cases base len with ⟨h, e⟩ | ⟨h, h', e⟩
  · simp [e, h]
  · simp only [e, reduceCtorEq, false_iff]; omega

/-- A guarded commit ends in the commit or in the fault entered from the state the instruction began in (R55, R166). -/
theorem guardRun_cases (base len : Nat) (t : State) :
    (base + len ≤ 4096 ∨ len = 0) ∧ guardRun base len s t = .next t ∨
      4096 < base + len ∧ len ≠ 0 ∧ guardRun base len s t = .next (s.enterFault (.outOfBounds (max base 4096))) := by
  unfold guardRun
  rcases checkRun_cases base len with ⟨h, e⟩ | ⟨h, h', e⟩
  · exact .inl ⟨h, by rw [e]⟩
  · exact .inr ⟨h, h', by rw [e]; rfl⟩

theorem guardRun_of_le {base len : Nat} (t : State) (h : base + len ≤ 4096) : guardRun base len s t = .next t := by
  rcases guardRun_cases s base len t with ⟨-, e⟩ | ⟨h', -, -⟩
  · exact e
  · omega

theorem guardRun_zero (base : Nat) (t : State) : guardRun base 0 s t = .next t := by
  rcases guardRun_cases s base 0 t with ⟨-, e⟩ | ⟨-, h', -⟩
  · exact e
  · exact absurd rfl h'

theorem guardRun_of_lt {base len : Nat} (t : State) (hb : base ≤ 4096) (h : 4096 < base + len) :
    guardRun base len s t = .next (s.enterFault (.outOfBounds 4096)) := by
  rcases guardRun_cases s base len t with ⟨h', -⟩ | ⟨-, -, e⟩
  · omega
  · rw [e, max_eq_right hb]

/-- I is at most 0xFFF (R13). -/
theorem State.base_lt : s.base < 4096 := s.idx.isLt

/-! ## The tick (R27, R45, R165) -/

/-- The fetch: the two bytes at PC, or OutOfBounds with the address R45 gives. -/
theorem fetch_cases :
    s.pc.toNat ≤ 0xFFE ∧ fetch s = .ok (wordOfBytes (s.byte s.pc.toNat) (s.byte (s.pc.toNat + 1))) ∨
      0xFFE < s.pc.toNat ∧ fetch s = .error (.outOfBounds (max s.pc.toNat 4096)) := by
  unfold fetch
  rcases checkRun_cases s.pc.toNat 2 with ⟨h, e⟩ | ⟨h, -, e⟩
  · exact .inl ⟨by omega, by rw [e]⟩
  · exact .inr ⟨by omega, by rw [e]⟩

/-- All that a tick can do: be ignored, fault at fetch, fault at decode, or run the decoded instruction. -/
theorem step_cases :
    s.gated = true ∧ step s = .next s ∨
      s.gated = false ∧ (∃ f, fetchDecode s = .error f ∧ step s = .next (s.enterFault f)) ∨
      s.gated = false ∧ ∃ i, fetchDecode s = .ok i ∧ step s = endTick i (exec i s) := by
  unfold step
  cases hg : s.gated
  · cases hf : fetchDecode s with
    | error f => exact .inr (.inl ⟨rfl, f, rfl, rfl⟩)
    | ok i => exact .inr (.inr ⟨rfl, i, rfl, rfl⟩)
  · exact .inl ⟨rfl, rfl⟩

/-- A tick acts only on a started machine that is not halted (R27). -/
theorem State.gated_eq_false : s.gated = false ↔ s.run = true ∧ s.halted = false := by
  unfold State.gated
  cases s.run <;> cases s.halted <;> simp

@[simp] theorem endTick_next (i : Instr) (t : State) : endTick i (.next t) = .next (finishTick i t) := rfl

/-- A faulting tick ends as the fault left it (R166). -/
theorem finishTick_of_halted {i : Instr} {t : State} (h : t.halted = true) : finishTick i t = t := by
  simp [finishTick, h]

/-- A completed tick counts the timers down (R171). -/
theorem finishTick_of_running {i : Instr} {t : State} (h : t.halted = false) :
    finishTick i t = t.tickTimers.refreshInputs i := by
  simp [finishTick, h]

/-- Refreshing the inputs touches nothing but `keys`, `rnd` and the sample counter. -/
theorem State.refreshInputs_frame (i : Instr) :
    s.refreshInputs i =
      { s with keys := (s.refreshInputs i).keys, rnd := (s.refreshInputs i).rnd, samples := (s.refreshInputs i).samples } := by
  unfold State.refreshInputs
  split
  · rfl
  · split <;> rfl

/-- The end of a tick touches nothing but the timers, the inputs and the sample counter. -/
theorem finishTick_frame (i : Instr) (t : State) :
    finishTick i t =
      { t with dt := (finishTick i t).dt, st := (finishTick i t).st, keys := (finishTick i t).keys,
               rnd := (finishTick i t).rnd, samples := (finishTick i t).samples } := by
  unfold finishTick
  split
  · rfl
  · rw [State.refreshInputs_frame]; rfl

/-- One countdown of R171 as a number. -/
theorem toNat_countDown (t : Byte) : (countDown t).toNat = t.toNat - 1 := by
  unfold countDown
  split
  · rename_i h; simp [h]
  · rename_i h
    have : t.toNat ≠ 0 := fun e => h (BitVec.eq_of_toNat_eq e)
    have := t.isLt
    rw [BitVec.toNat_sub]
    simp only [BitVec.toNat_ofNat]
    omega

section
variable (i : Instr) (t : State)

@[simp] theorem finishTick_mem : (finishTick i t).mem = t.mem := by rw [finishTick_frame]
@[simp] theorem finishTick_v : (finishTick i t).v = t.v := by rw [finishTick_frame]
@[simp] theorem finishTick_idx : (finishTick i t).idx = t.idx := by rw [finishTick_frame]
@[simp] theorem finishTick_pc : (finishTick i t).pc = t.pc := by rw [finishTick_frame]
@[simp] theorem finishTick_stack : (finishTick i t).stack = t.stack := by rw [finishTick_frame]
@[simp] theorem finishTick_fb : (finishTick i t).fb = t.fb := by rw [finishTick_frame]
@[simp] theorem finishTick_halted : (finishTick i t).halted = t.halted := by rw [finishTick_frame]
@[simp] theorem finishTick_faultCode : (finishTick i t).faultCode = t.faultCode := by rw [finishTick_frame]
@[simp] theorem finishTick_faultInfo : (finishTick i t).faultInfo = t.faultInfo := by rw [finishTick_frame]
@[simp] theorem finishTick_run : (finishTick i t).run = t.run := by rw [finishTick_frame]
@[simp] theorem finishTick_params : (finishTick i t).params = t.params := by rw [finishTick_frame]
@[simp] theorem finishTick_flushes : (finishTick i t).flushes = t.flushes := by rw [finishTick_frame]
@[simp] theorem finishTick_reg (z : Nibble) : (finishTick i t).reg z = t.reg z := by rw [finishTick_frame]; rfl
@[simp] theorem finishTick_byte (a : Nat) : (finishTick i t).byte a = t.byte a := by rw [finishTick_frame]; rfl
@[simp] theorem finishTick_pixel (x : Fin 64) (y : Fin 32) : (finishTick i t).pixel x y = t.pixel x y := by
  rw [finishTick_frame]; rfl
end

/-- The timers at the end of a completed tick (R171). -/
theorem finishTick_timers {i : Instr} {t : State} (h : t.halted = false) :
    (finishTick i t).dt = countDown t.dt ∧ (finishTick i t).st = countDown t.st := by
  rw [finishTick_of_running h, State.refreshInputs_frame]
  exact ⟨rfl, rfl⟩

end Sys2Proof.Machine
end

