-- ==== Sys2Proof/Laws/PerInstr.lean ====
section
/-! SUPPORT. The statements made of every instruction, one lemma per constructor. -/

/-- The family OperandsFit: the instruction is well formed, that is, its assembler line has a mnemonic of R64, as many operands
as its format has, and each within its field (R61, R62, R68). -/
def Sys2Proof.Laws.OperandsFit.Statement (i : Sys2Proof.Instr) : Prop := i.wellFormed = true

namespace Sys2Proof.Laws.OperandsFit

/-- Operands within the bounds of each format. -/
theorem fit_a (nnn : Addr) : operandsFit [nnn.toNat] Format.a.bounds = true := by
  simp [operandsFit, Format.bounds, nnn.isLt]

theorem fit_xb (x : Nibble) (nn : Byte) : operandsFit [x.toNat, nn.toNat] Format.xb.bounds = true := by
  simp [operandsFit, Format.bounds, x.isLt, nn.isLt]

theorem fit_xy (x y : Nibble) : operandsFit [x.toNat, y.toNat] Format.xy.bounds = true := by
  simp [operandsFit, Format.bounds, x.isLt, y.isLt]

theorem fit_xyn (x y n : Nibble) : operandsFit [x.toNat, y.toNat, n.toNat] Format.xyn.bounds = true := by
  simp [operandsFit, Format.bounds, x.isLt, y.isLt, n.isLt]

theorem fit_xf (x : Nibble) : operandsFit [x.toNat] Format.xf.bounds = true := by
  simp [operandsFit, Format.bounds, x.isLt]

/-- An instruction is well formed when its mnemonic has its format and its operands fit it. -/
theorem wellFormed_of {i : Instr} (hf : formatOf i.mnemonic = some i.format)
    (ho : operandsFit i.operands i.format.bounds = true) : i.wellFormed = true := by
  simp [Instr.wellFormed, AsmLine.wellFormed, Instr.asm, hf, ho]

theorem cls : Statement .cls := wellFormed_of rfl rfl
theorem ret : Statement .ret := wellFormed_of rfl rfl
theorem jp (nnn : Addr) : Statement (.jp nnn) := wellFormed_of rfl (fit_a nnn)
theorem call (nnn : Addr) : Statement (.call nnn) := wellFormed_of rfl (fit_a nnn)
theorem seb (x : Nibble) (nn : Byte) : Statement (.seb x nn) := wellFormed_of rfl (fit_xb x nn)
theorem sneb (x : Nibble) (nn : Byte) : Statement (.sneb x nn) := wellFormed_of rfl (fit_xb x nn)
theorem se (x y : Nibble) : Statement (.se x y) := wellFormed_of rfl (fit_xy x y)
theorem ldb (x : Nibble) (nn : Byte) : Statement (.ldb x nn) := wellFormed_of rfl (fit_xb x nn)
theorem addb (x : Nibble) (nn : Byte) : Statement (.addb x nn) := wellFormed_of rfl (fit_xb x nn)
theorem mov (x y : Nibble) : Statement (.mov x y) := wellFormed_of rfl (fit_xy x y)
theorem or (x y : Nibble) : Statement (.or x y) := wellFormed_of rfl (fit_xy x y)
theorem and (x y : Nibble) : Statement (.and x y) := wellFormed_of rfl (fit_xy x y)
theorem xor (x y : Nibble) : Statement (.xor x y) := wellFormed_of rfl (fit_xy x y)
theorem add (x y : Nibble) : Statement (.add x y) := wellFormed_of rfl (fit_xy x y)
theorem sub (x y : Nibble) : Statement (.sub x y) := wellFormed_of rfl (fit_xy x y)
theorem shr (x y : Nibble) : Statement (.shr x y) := wellFormed_of rfl (fit_xy x y)
theorem subn (x y : Nibble) : Statement (.subn x y) := wellFormed_of rfl (fit_xy x y)
theorem shl (x y : Nibble) : Statement (.shl x y) := wellFormed_of rfl (fit_xy x y)
theorem sne (x y : Nibble) : Statement (.sne x y) := wellFormed_of rfl (fit_xy x y)
theorem ldi (nnn : Addr) : Statement (.ldi nnn) := wellFormed_of rfl (fit_a nnn)
theorem jpv (x : Nibble) (nn : Byte) : Statement (.jpv x nn) := wellFormed_of rfl (fit_xb x nn)
theorem rnd (x : Nibble) (nn : Byte) : Statement (.rnd x nn) := wellFormed_of rfl (fit_xb x nn)
theorem drw (x y n : Nibble) : Statement (.drw x y n) := wellFormed_of rfl (fit_xyn x y n)
theorem skp (x : Nibble) : Statement (.skp x) := wellFormed_of rfl (fit_xf x)
theorem sknp (x : Nibble) : Statement (.sknp x) := wellFormed_of rfl (fit_xf x)
theorem lddt (x : Nibble) : Statement (.lddt x) := wellFormed_of rfl (fit_xf x)
theorem stdt (x : Nibble) : Statement (.stdt x) := wellFormed_of rfl (fit_xf x)
theorem stst (x : Nibble) : Statement (.stst x) := wellFormed_of rfl (fit_xf x)
theorem addi (x : Nibble) : Statement (.addi x) := wellFormed_of rfl (fit_xf x)
theorem font (x : Nibble) : Statement (.font x) := wellFormed_of rfl (fit_xf x)
theorem bcd (x : Nibble) : Statement (.bcd x) := wellFormed_of rfl (fit_xf x)
theorem stm (x : Nibble) : Statement (.stm x) := wellFormed_of rfl (fit_xf x)
theorem ldm (x : Nibble) : Statement (.ldm x) := wellFormed_of rfl (fit_xf x)

end Sys2Proof.Laws.OperandsFit
end

