-- ==== Sys2Proof/Tests/Slice0.lean ====
section
/-! SUPPORT. The model's own tests: ill-formed terms the checks refuse, words written out from the spec's encodings, one tick on
small states with the results of the vectors of spec/95_test_vectors.md, and a witness for each statement with hypotheses. -/

namespace Sys2Proof.Tests

open Sys2Proof Sys2Proof.Machine

/-! ## Well-formedness: each check refuses something (R62, R68) -/

theorem test_wf_unknown_mnemonic : (AsmLine.mk "NOP" []).wellFormed = false := by decide
theorem test_wf_lower_case_mnemonic : (AsmLine.mk "cls" []).wellFormed = false := by decide
theorem test_wf_operand_missing : (AsmLine.mk "LDB" [1]).wellFormed = false := by decide
theorem test_wf_operand_too_many : (AsmLine.mk "CLS" [0]).wellFormed = false := by decide
theorem test_wf_register_out_of_range : (AsmLine.mk "LDB" [16, 0]).wellFormed = false := by decide
theorem test_wf_byte_out_of_range : (AsmLine.mk "LDB" [15, 256]).wellFormed = false := by decide
theorem test_wf_address_out_of_range : (AsmLine.mk "JP" [4096]).wellFormed = false := by decide
theorem test_wf_second_register_out_of_range : (AsmLine.mk "MOV" [0, 16]).wellFormed = false := by decide
theorem test_wf_rows_out_of_range : (AsmLine.mk "DRW" [0, 0, 16]).wellFormed = false := by decide
theorem test_wf_key_out_of_range : (AsmLine.mk "SKP" [16]).wellFormed = false := by decide
theorem test_wf_largest_operands : (AsmLine.mk "DRW" [15, 15, 15]).wellFormed = true := by decide
theorem test_wf_ill_formed_has_no_word : (AsmLine.mk "JP" [4096]).word = none := by decide

/-! ## Decoding: one word per constructor, written out by hand from the patterns of R64 and the fields of R61 -/

theorem test_decode_group0 : decode 0x00E0#16 = .ok .cls ∧ decode 0x00EE#16 = .ok .ret ∧
    decode 0x00E1#16 = .error (.unrecognized 0x00E1#16) ∧ decode 0x0FEE#16 = .error (.unrecognized 0x0FEE#16) := by decide
theorem test_decode_flow : decode 0x1ABC#16 = .ok (.jp 0xABC#12) ∧ decode 0x2FFF#16 = .ok (.call 0xFFF#12) ∧
    decode 0xB234#16 = .ok (.jpv 0x2#4 0x34#8) := by decide
theorem test_decode_skips : decode 0x3A05#16 = .ok (.seb 0xA#4 0x05#8) ∧ decode 0x4B06#16 = .ok (.sneb 0xB#4 0x06#8) ∧
    decode 0x5120#16 = .ok (.se 0x1#4 0x2#4) ∧ decode 0x9340#16 = .ok (.sne 0x3#4 0x4#4) ∧
    decode 0xE59E#16 = .ok (.skp 0x5#4) ∧ decode 0xE6A1#16 = .ok (.sknp 0x6#4) := by decide
theorem test_decode_immediates : decode 0x6FAB#16 = .ok (.ldb 0xF#4 0xAB#8) ∧ decode 0x7A10#16 = .ok (.addb 0xA#4 0x10#8) ∧
    decode 0xA2F0#16 = .ok (.ldi 0x2F0#12) ∧ decode 0xC30F#16 = .ok (.rnd 0x3#4 0x0F#8) := by decide
theorem test_decode_alu_logic : decode 0x8120#16 = .ok (.mov 0x1#4 0x2#4) ∧ decode 0x8341#16 = .ok (.or 0x3#4 0x4#4) ∧
    decode 0x8562#16 = .ok (.and 0x5#4 0x6#4) ∧ decode 0x8783#16 = .ok (.xor 0x7#4 0x8#4) := by decide
theorem test_decode_alu_flagged : decode 0x89A4#16 = .ok (.add 0x9#4 0xA#4) ∧ decode 0x8BC5#16 = .ok (.sub 0xB#4 0xC#4) ∧
    decode 0x8DE6#16 = .ok (.shr 0xD#4 0xE#4) ∧ decode 0x8F07#16 = .ok (.subn 0xF#4 0x0#4) ∧
    decode 0x812E#16 = .ok (.shl 0x1#4 0x2#4) := by decide
theorem test_decode_display : decode 0xD125#16 = .ok (.drw 0x1#4 0x2#4 0x5#4) := by decide
theorem test_decode_timers : decode 0xF307#16 = .ok (.lddt 0x3#4) ∧ decode 0xF415#16 = .ok (.stdt 0x4#4) ∧
    decode 0xF518#16 = .ok (.stst 0x5#4) := by decide
theorem test_decode_index_memory : decode 0xF61E#16 = .ok (.addi 0x6#4) ∧ decode 0xF729#16 = .ok (.font 0x7#4) ∧
    decode 0xF833#16 = .ok (.bcd 0x8#4) ∧ decode 0xF955#16 = .ok (.stm 0x9#4) ∧ decode 0xFA65#16 = .ok (.ldm 0xA#4) := by
  decide

/-- T-SE-4, T-SNE-4, T-ALU-X, T-DEC-3, T-DEC-4: near misses, each refused under its own word. -/
theorem test_decode_refuses_group5_group9 : decode 0x5121#16 = .error (.unrecognized 0x5121#16) ∧
    decode 0x9121#16 = .error (.unrecognized 0x9121#16) := by decide
theorem test_decode_refuses_group8 : [0x8128#16, 0x8129#16, 0x812A#16, 0x812B#16, 0x812C#16, 0x812D#16, 0x812F#16].map decodeRow =
    List.replicate 7 none := by decide
theorem test_decode_refuses_groupE_groupF : [0xE000#16, 0xE09F#16, 0xE0A0#16, 0xF000#16, 0xF00A#16, 0xF075#16, 0xF166#16].map
    decodeRow = List.replicate 7 none := by decide

theorem test_decode_short_bytes : decodeBytes [0x00#8] = .error .truncated := by decide
theorem test_decode_high_byte_first :
    decodeBytes [0x60#8, 0x05#8, 0xAA#8] = .ok (.ldb 0x0#4 0x05#8, [0xAA#8]) := by decide
theorem test_encode_drw : encodeBytes (.drw 0x1#4 0x2#4 0x5#4) = [0xD1#8, 0x25#8] := by decide
theorem test_asm_word : (AsmLine.mk "DRW" [0, 1, 2]).word = some 0xD012#16 := by decide
theorem test_decodeTableWord : decodeTableWord 16 0x6FAB = some (.ldb 0xF#4 0xAB#8) ∧ decodeTableWord 16 0x5121 = none := by
  decide

/-! ## One tick (the vectors of spec/95_test_vectors.md) -/

/-- The state a step leaves. -/
def after (s : State) : State :=
  match step s with
  | .next t => t
  | .fault _ => s
  | .refused _ => s

/-- The state after one tick with the word `w` placed at PC. -/
def ran (w : Nat) (s : State) : State := after (s.withFetchWord 16 w)

/-- The reset state with some registers set. -/
def regs (l : List (Nibble × Byte)) : State := l.foldl (fun s p => s.setReg p.1 p.2) State.reset

/-- The reset state with a row of bytes from an address and I at that address. -/
def bytesAt (a : Nat) (l : List Byte) (s : State) : State := (s.storeRun a l).setIdx (BitVec.ofNat 12 a)

/-- The three parts of the fault record. -/
def record (s : State) : Bool × Nat × Nat := (s.halted, s.faultCode.toNat, s.faultInfo.toNat)

/-! ### Control transfer -/

/-- T-RET-3. -/
theorem test_ret_pops_newest : (ran 0x00EE ((State.reset.push 0x300#16).push 0x400#16)).pc = 0x400#16 ∧
    (ran 0x00EE ((State.reset.push 0x300#16).push 0x400#16)).stack = [0x300#16] := by decide
/-- S7, T-RET-2. -/
theorem test_ret_empty_faults : record (ran 0x00EE (State.reset.setDt 5#8)) = (true, 2, 0) ∧
    (ran 0x00EE (State.reset.setDt 5#8)).pc = 0x200#16 ∧ (ran 0x00EE (State.reset.setDt 5#8)).dt = 5#8 := by decide
/-- T-JP-1. -/
theorem test_jp : (ran 0x1ABC State.reset).pc = 0xABC#16 := by decide
/-- T-JP-3. -/
theorem test_jp_last_byte : (ran 0x1FFF State.reset).pc = 0xFFF#16 ∧ record (ran 0x1FFF State.reset) = (false, 0, 0) ∧
    record (after (ran 0x1FFF State.reset)) = (true, 1, 0x1000) := by decide
/-- T-CALL-2. -/
theorem test_call_from_top : (ran 0x2FFF (State.reset.setPc 0xFFE#16)).pc = 0xFFF#16 ∧
    (ran 0x2FFF (State.reset.setPc 0xFFE#16)).stack = [0x1000#16] := by decide

/-- A stack of finite depth 2 with the given entries (T-CALL-3, T-CALL-4). -/
def depth2 (entries : List Word) : State :=
  { State.resetWith { stackDepth := some 2, font := customaryFont } 0#16 0#8 true with stack := entries }

/-- T-CALL-3 and T-CALL-4. -/
theorem test_call_full_stack : record (ran 0x2300 (depth2 [0x400#16, 0x300#16])) = (true, 4, 0) ∧
    (ran 0x2300 (depth2 [0x400#16, 0x300#16])).stack = [0x400#16, 0x300#16] ∧
    (ran 0x2300 (depth2 [0x300#16])).stack = [0x202#16, 0x300#16] := by decide
/-- T-JPV-2. -/
theorem test_jpv_largest : (ran 0xBFFF (regs [(0xF#4, 0xFF#8)])).pc = 0x1FE#16 := by decide
/-- T-JPV-4. -/
theorem test_jpv_ignores_v0 : (ran 0xB234 (regs [(0x0#4, 0x77#8)])).pc = 0x034#16 := by decide

/-! ### Skips -/

/-- T-SEB-1, T-SEB-2. -/
theorem test_seb : (ran 0x3A05 (regs [(0xA#4, 0x05#8)])).pc = 0x204#16 ∧ (ran 0x3A05 (regs [(0xA#4, 0x06#8)])).pc = 0x202#16 := by
  decide
/-- T-SEB-3. -/
theorem test_seb_past_memory : (ran 0x3A05 ((regs [(0xA#4, 0x05#8)]).setPc 0xFFE#16)).pc = 0x1002#16 ∧
    record (after (ran 0x3A05 ((regs [(0xA#4, 0x05#8)]).setPc 0xFFE#16))) = (true, 1, 0x1002) := by decide
/-- T-SNEB-1, T-SNEB-2. -/
theorem test_sneb : (ran 0x4A05 (regs [(0xA#4, 0x05#8)])).pc = 0x202#16 ∧
    (ran 0x4A05 (regs [(0xA#4, 0x06#8)])).pc = 0x204#16 := by decide
/-- T-SE-1, T-SE-2, T-SE-3. -/
theorem test_se : (ran 0x5120 (regs [(0x1#4, 7#8), (0x2#4, 7#8)])).pc = 0x204#16 ∧
    (ran 0x5120 (regs [(0x1#4, 7#8), (0x2#4, 8#8)])).pc = 0x202#16 ∧ (ran 0x5330 (regs [(0x3#4, 9#8)])).pc = 0x204#16 := by decide
/-- T-SNE-1, T-SNE-2, T-SNE-3. -/
theorem test_sne : (ran 0x9120 (regs [(0x1#4, 7#8), (0x2#4, 8#8)])).pc = 0x204#16 ∧
    (ran 0x9120 (regs [(0x1#4, 7#8), (0x2#4, 7#8)])).pc = 0x202#16 ∧ (ran 0x9330 (regs [(0x3#4, 9#8)])).pc = 0x202#16 := by decide
/-- T-SKP-1, T-SKP-3. -/
theorem test_skp : (ran 0xE59E (State.reset.setKeys 0x0020#16)).pc = 0x204#16 ∧
    (ran 0xEF9E (State.reset.setKeys 0x8000#16)).pc = 0x204#16 := by decide
/-- T-SKP-4. -/
theorem test_skp_reads_no_register : (ran 0xE09E ((regs [(0x0#4, 1#8)]).setKeys 0xFFFE#16)).pc = 0x202#16 := by decide
/-- T-SKNP-1, T-SKNP-2. -/
theorem test_sknp : (ran 0xE5A1 (State.reset.setKeys 0x0020#16)).pc = 0x202#16 ∧ (ran 0xE5A1 State.reset).pc = 0x204#16 := by
  decide
/-- T-SKNP-3. -/
theorem test_sknp_reads_no_register : (ran 0xE0A1 ((regs [(0x0#4, 1#8)]).setKeys 0x0002#16)).pc = 0x204#16 := by decide

/-! ### Immediates -/

/-- T-LDB-2. -/
theorem test_ldb_vf : (ran 0x6FAB State.reset).reg 0xF#4 = 0xAB#8 ∧ (ran 0x6FAB State.reset).pc = 0x202#16 := by decide
/-- T-ADDB-1. -/
theorem test_addb_no_flag : (ran 0x7A10 (regs [(0xA#4, 0xF8#8), (0xF#4, 0x33#8)])).reg 0xA#4 = 0x08#8 ∧
    (ran 0x7A10 (regs [(0xA#4, 0xF8#8), (0xF#4, 0x33#8)])).reg 0xF#4 = 0x33#8 := by decide
/-- T-ADDB-3. -/
theorem test_addb_vf_destination : (ran 0x7FFF (regs [(0xF#4, 1#8)])).reg 0xF#4 = 0#8 := by decide
/-- T-LDI-2. -/
theorem test_ldi : (ran 0xAFFF State.reset).idx = 0xFFF#12 := by decide
/-- T-RND-1. -/
theorem test_rnd_masks : (ran 0xC30F (State.reset.setRnd 0xA7#8)).reg 0x3#4 = 0x07#8 := by decide
/-- T-RND-3. -/
theorem test_rnd_full_mask : (ran 0xC3FF (State.reset.setRnd 0x5A#8)).reg 0x3#4 = 0x5A#8 := by decide

/-! ### Register to register: V1, V2 and VF before, V1 and VF after -/

/-- V1 and VF after the word, from V1, V2 and VF. -/
def alu (w : Nat) (v1 v2 vf : Byte) : Byte × Byte :=
  ((ran w (regs [(0x1#4, v1), (0x2#4, v2), (0xF#4, vf)])).reg 0x1#4, (ran w (regs [(0x1#4, v1), (0x2#4, v2), (0xF#4, vf)])).reg 0xF#4)

/-- T-MOV-1, T-MOV-2. -/
theorem test_mov : alu 0x8120 0x00#8 0x9C#8 0x00#8 = (0x9C#8, 0x00#8) ∧ alu 0x8F20 0x00#8 0x9C#8 0x00#8 = (0x00#8, 0x9C#8) := by decide
/-- T-OR-1. -/
theorem test_or : alu 0x8121 0xF0#8 0x0F#8 0x55#8 = (0xFF#8, 0x55#8) := by decide
/-- T-AND-1. -/
theorem test_and : alu 0x8122 0xF3#8 0x3C#8 0x55#8 = (0x30#8, 0x55#8) := by decide
/-- T-XOR-1, T-XOR-2. -/
theorem test_xor : alu 0x8123 0xF3#8 0x3C#8 0x55#8 = (0xCF#8, 0x55#8) ∧ alu 0x8113 0xF3#8 0x00#8 0x55#8 = (0x00#8, 0x55#8) := by decide
/-- T-ADD-2, T-ADD-3. -/
theorem test_add_carry : alu 0x8124 0xFF#8 0x00#8 0x01#8 = (0xFF#8, 0x00#8) ∧ alu 0x8124 0xFF#8 0x01#8 0x00#8 = (0x00#8, 0x01#8) := by
  decide
/-- T-ADD-6, T-ADD-7, T-ADD-8. -/
theorem test_add_vf_operand : alu 0x8F24 0x00#8 0x64#8 0xC8#8 = (0x00#8, 0x2C#8) ∧
    alu 0x81F4 0xC8#8 0x00#8 0x64#8 = (0x2C#8, 0x01#8) ∧ alu 0x8FF4 0x00#8 0x00#8 0xC8#8 = (0x00#8, 0x90#8) := by decide
/-- T-SUB-1, T-SUB-3. -/
theorem test_sub : alu 0x8125 0x0A#8 0xFA#8 0x01#8 = (0x10#8, 0x00#8) ∧ alu 0x8125 0x07#8 0x07#8 0x01#8 = (0x00#8, 0x00#8) := by decide
/-- T-SUB-6, T-SUB-7. -/
theorem test_sub_vf_operand : alu 0x81F5 0x0A#8 0x00#8 0x03#8 = (0x07#8, 0x01#8) ∧
    alu 0x8F25 0x00#8 0x03#8 0x0A#8 = (0x00#8, 0x07#8) := by decide
/-- T-SHR-1, T-SHR-2. -/
theorem test_shr : alu 0x8126 0xFF#8 0x05#8 0x00#8 = (0x02#8, 0x01#8) ∧ alu 0x8126 0xFF#8 0x80#8 0x01#8 = (0x40#8, 0x00#8) := by decide
/-- T-SHR-4, T-SHR-5. -/
theorem test_shr_vf_operand : alu 0x8F26 0x00#8 0x07#8 0x00#8 = (0x00#8, 0x03#8) ∧
    alu 0x81F6 0xFF#8 0x00#8 0x06#8 = (0x03#8, 0x00#8) := by decide
/-- T-SUBN-2, T-SUBN-3. -/
theorem test_subn : alu 0x8127 0xFA#8 0x0A#8 0x01#8 = (0x10#8, 0x00#8) ∧ alu 0x8127 0x07#8 0x07#8 0x00#8 = (0x00#8, 0x01#8) := by decide
/-- T-SUBN-5. -/
theorem test_subn_vf_destination : alu 0x8F27 0x00#8 0x0A#8 0x03#8 = (0x00#8, 0x07#8) := by decide
/-- T-SHL-1, T-SHL-2. -/
theorem test_shl : alu 0x812E 0x80#8 0x41#8 0x00#8 = (0x82#8, 0x01#8) ∧ alu 0x812E 0x00#8 0xC1#8 0x01#8 = (0x82#8, 0x00#8) := by decide
/-- T-SHL-4, T-SHL-5. -/
theorem test_shl_vf_operand : alu 0x8F2E 0x00#8 0x41#8 0x80#8 = (0x00#8, 0x82#8) ∧
    alu 0x81FE 0x7F#8 0x00#8 0xFF#8 = (0xFE#8, 0x00#8) := by decide

/-! ### Display -/

/-- The cells at the given (x, y). -/
def cells (s : State) (l : List (Fin 64 × Fin 32)) : List Bool := l.map fun p => s.pixel p.1 p.2

/-- The reset state with some cells on. -/
def withCells (l : List (Fin 64 × Fin 32)) (s : State) : State :=
  l.foldl (fun s p => s.setFb (FrameBuffer.setCell s.fb p.1 p.2 true)) s

/-- T-CLS-1. -/
theorem test_cls : cells (ran 0x00E0 (withCells [(0, 0), (63, 31)] State.reset)) [(0, 0), (63, 31)] = [false, false] ∧
    (ran 0x00E0 (withCells [(0, 0), (63, 31)] State.reset)).flushes = 1 := by decide
/-- T-DRW-2: the origin wraps, the sprite is clipped at the right edge and at the bottom. -/
theorem test_drw_wrap_and_clip :
    cells (ran 0xD012 (bytesAt 0x300 [0xC0#8, 0xC0#8] (regs [(0x0#4, 0x7E#8), (0x1#4, 0x3F#8)])))
      [(62, 31), (63, 31), (61, 31), (0, 31), (62, 0), (63, 0), (62, 30)] = [true, true, false, false, false, false, false] := by
  decide
/-- T-DRW-3: the collision. -/
theorem test_drw_collision : cells (ran 0xD011 (bytesAt 0x300 [0xFF#8] (withCells [(7, 0)] State.reset)))
      [(0, 0), (6, 0), (7, 0), (8, 0), (0, 1)] = [true, true, false, false, false] ∧
    (ran 0xD011 (bytesAt 0x300 [0xFF#8] (withCells [(7, 0)] State.reset))).reg 0xF#4 = 1#8 := by decide

/-! ### Timers, index, memory -/

/-- T-FX07. -/
theorem test_lddt : (ran 0xF307 (State.reset.setDt 30#8)).reg 0x3#4 = 30#8 ∧ (ran 0xF307 (State.reset.setDt 30#8)).dt = 29#8 := by decide
/-- T-FX15, T-FX15-b. -/
theorem test_stdt : (ran 0xF315 (regs [(0x3#4, 2#8)])).dt = 1#8 ∧ (ran 0xF315 (State.reset.setDt 9#8)).dt = 0#8 := by decide
/-- T-FX18, T-FX18-b. -/
theorem test_stst : (ran 0xF318 (regs [(0x3#4, 5#8)])).stValue = 4#8 ∧ (ran 0xF318 (regs [(0x3#4, 1#8)])).toneGate = false := by decide
/-- T-FX1E-b. -/
theorem test_addi_wraps : (ran 0xF41E ((regs [(0x4#4, 1#8), (0xF#4, 9#8)]).setIdx 0xFFF#12)).idx = 0#12 ∧
    (ran 0xF41E ((regs [(0x4#4, 1#8), (0xF#4, 9#8)]).setIdx 0xFFF#12)).reg 0xF#4 = 9#8 := by decide
/-- T-FX29, T-FX29-b. -/
theorem test_font : (ran 0xF229 (regs [(0x2#4, 0x0A#8)])).idx = 0x032#12 ∧ (ran 0xF229 (regs [(0x2#4, 0xFF#8)])).idx = 0x4FB#12 := by decide
/-- T-FX33, T-FX33-f. -/
theorem test_bcd : (ran 0xF033 ((regs [(0x0#4, 0x9C#8)]).setIdx 0xFFD#12)).readRun 0xFFD 3 = [1#8, 5#8, 6#8] := by decide
/-- T-FX33-g. -/
theorem test_bcd_out_of_bounds : record (ran 0xF033 ((regs [(0x0#4, 0x9C#8)]).setIdx 0xFFE#12)) = (true, 1, 0x1000) ∧
    (ran 0xF033 ((regs [(0x0#4, 0x9C#8)]).setIdx 0xFFE#12)).readRun 0xFFE 2 = [0#8, 0#8] := by decide
/-- T-FX55. -/
theorem test_stm : (ran 0xF255 ((regs [(0x0#4, 0x11#8), (0x1#4, 0x22#8), (0x2#4, 0x33#8), (0x3#4, 0x44#8)]).setIdx 0x400#12)).readRun
    0x400 4 = [0x11#8, 0x22#8, 0x33#8, 0x00#8] := by decide
/-- T-FX55-c. -/
theorem test_stm_out_of_bounds : record (ran 0xFF55 (State.reset.setIdx 0xFF1#12)) = (true, 1, 0x1000) ∧
    record (ran 0xFF55 (State.reset.setIdx 0xFF0#12)) = (false, 0, 0) := by decide
/-- T-FX65. -/
theorem test_ldm : ((ran 0xF265 (bytesAt 0x400 [0x11#8, 0x22#8, 0x33#8] (regs [(0x3#4, 0x99#8)]))).regsUpTo 3#4) =
    [0x11#8, 0x22#8, 0x33#8, 0x99#8] := by decide
/-- T-FX65-d, with the default font. -/
theorem test_ldm_font : ((ran 0xF465 State.reset).regsUpTo 4#4) = [0xF0#8, 0x90#8, 0x90#8, 0x90#8, 0xF0#8] := by decide

/-! ### Fetch, halt, reset and loading -/

/-- T-FETCH-2, T-FETCH-3. -/
theorem test_fetch_out_of_bounds : record (after (State.reset.setPc 0xFFF#16)) = (true, 1, 0x1000) ∧
    record (after (State.reset.setPc 0x1001#16)) = (true, 1, 0x1001) := by decide
/-- T-FETCH-1, T-FETCH-4. -/
theorem test_fetch_edges : (ran 0x1200 (State.reset.setPc 0xFFE#16)).pc = 0x200#16 ∧
    (ran 0x6005 (State.reset.setPc 0x201#16)).pc = 0x203#16 := by decide
/-- T-DEC-1, T-LOAD-4. -/
theorem test_nothing_loaded : record (after State.reset) = (true, 3, 0x0000) ∧ (after State.reset).pc = 0x200#16 := by decide
/-- T-HALT-1, T-RUN-1. -/
theorem test_ignored_ticks : after (after State.reset) = after State.reset ∧ after (State.reset.setDt 5#8).stop = (State.reset.setDt 5#8).stop := by
  decide
/-- T-FX55-d, T-RST-2. -/
theorem test_reset_restores_font : (ran 0xF055 (regs [(0x0#4, 0xAB#8)])).byte 0 = 0xAB#8 ∧
    (ran 0xF055 (regs [(0x0#4, 0xAB#8)])).hostReset.byte 0 = 0xF0#8 := by decide
/-- T-LOAD-3. -/
theorem test_load_nothing : State.reset.loadRom [] = (State.reset, false) := by decide
/-- T-LOAD-2. -/
theorem test_load_too_long : State.reset.loadRom (List.replicate 3585 0x60#8) = (State.reset, true) :=
  if_pos (by rw [List.length_replicate]; decide)
/-- T-SMC-1, its second tick. -/
theorem test_store_then_fetch : (after (ran 0xF055 ((regs [(0x0#4, 0x12#8)]).setIdx 0x202#12))).pc = 0x200#16 := by decide

/-! ## Witnesses: for each statement with hypotheses, states and operands that meet them together, at the boundaries -/

/-- The reset machine with a word placed at PC. -/
def placed (w : Nat) : State := State.reset.withFetchWord 16 w

/-- A machine whose next word is the last of memory. -/
def placedLast (w : Nat) : State := (State.reset.setPc 0xFFE#16).withFetchWord 16 w

/-- The machine halted by UnrecognizedOpcode(0x0000). -/
def dead : State := State.reset.enterFault (.unrecognizedOpcode 0#16)

theorem witness_DecodeOfEncodeIsTheInstruction : (Instr.drw 0xF#4 0xF#4 0xF#4).wellFormed = true ∧ Instr.cls.wellFormed = true ∧
    (Instr.jp 0xFFF#12).wellFormed = true := by decide
theorem witness_EncodeOfDecodedWordIsTheWord : decode 0xDFFF#16 = .ok (.drw 0xF#4 0xF#4 0xF#4) := by decide
theorem witness_DecodeFollowsMatchAndMask : decode 0x8F0E#16 = .ok (.shl 0xF#4 0x0#4) ∧
    decode 0x8F0F#16 = .error (.unrecognized 0x8F0F#16) ∧
    (⟨"SHL", 0x800E#16, 0xF00F#16⟩ : OpcodeRow) ∈ opcodeTable ∧
    (⟨"SHL", 0x800E#16, 0xF00F#16⟩ : OpcodeRow).selects 0x8F0E#16 = true := by decide
theorem witness_StepRunsTheDecodedInstruction : (placedLast 0x8FF4).Running ∧ (placedLast 0x8FF4).pc.toNat ≤ 0xFFE ∧
    (Instr.add 0xF#4 0xF#4).wellFormed = true ∧
    decodeBytes [(placedLast 0x8FF4).byte (placedLast 0x8FF4).pc.toNat, (placedLast 0x8FF4).byte ((placedLast 0x8FF4).pc.toNat + 1)] =
      .ok (.add 0xF#4 0xF#4, []) := ⟨⟨rfl, rfl⟩, by decide, by decide, by decide⟩
/-- The clauses on a halted and on a running `t`. -/
theorem witness_StepRunsTheDecodedInstruction_clauses :
    (∃ t, exec .ret (placed 0x00EE) = .next t ∧ t.halted = true) ∧
    ∃ t, exec (.add 0xF#4 0xF#4) (placed 0x8FF4) = .next t ∧ t.halted = false ∧ samplesKeys (.add 0xF#4 0xF#4) = false ∧
      samplesRnd (.add 0xF#4 0xF#4) = false := ⟨⟨_, rfl, rfl⟩, _, rfl, rfl, rfl, rfl⟩
theorem witness_FetchBeyondMemoryFaults :
    ((State.reset.setPc 0xFFF#16).Running ∧ 0xFFE < (State.reset.setPc 0xFFF#16).pc.toNat) ∧
    ((State.reset.setPc 0x1002#16).Running ∧ 0xFFE < (State.reset.setPc 0x1002#16).pc.toNat) :=
  ⟨⟨⟨rfl, rfl⟩, by decide⟩, ⟨rfl, rfl⟩, by decide⟩
theorem witness_UnrecognizedWordFaults : (placedLast 0x5121).Running ∧ (placedLast 0x5121).pc.toNat ≤ 0xFFE ∧
    recognized (wordOfBytes ((placedLast 0x5121).byte (placedLast 0x5121).pc.toNat)
      ((placedLast 0x5121).byte ((placedLast 0x5121).pc.toNat + 1))) = false := ⟨⟨rfl, rfl⟩, by decide, by decide⟩
theorem witness_IgnoredTickChangesNothing : State.reset.stop.run = false ∧ dead.halted = true := ⟨rfl, rfl⟩
theorem witness_FaultingTickChangesOnlyTheFaultRecord :
    State.reset.halted = false ∧ step State.reset = .next dead ∧ dead.halted = true := ⟨rfl, rfl, rfl⟩
/-- Each condition of `faultsAtExecute` at the first value that meets it, on a machine that is not halted. -/
theorem witness_FaultsAtExecuteRecordTheirCode : State.reset.halted = false ∧
    faultsAtExecute .ret State.reset ∧ faultsAtExecute (.call 0x300#12) (depth2 [0x400#16, 0x300#16]) ∧
    faultsAtExecute (.drw 0x0#4 0x0#4 0x2#4) (State.reset.setIdx 0xFFF#12) ∧
    faultsAtExecute (.bcd 0x0#4) (State.reset.setIdx 0xFFE#12) ∧ faultsAtExecute (.stm 0xF#4) (State.reset.setIdx 0xFF1#12) ∧
    faultsAtExecute (.ldm 0x1#4) (State.reset.setIdx 0xFFF#12) :=
  ⟨rfl, rfl, rfl, ⟨by decide, by decide⟩, (by decide : 4096 < 0xFFE + 3), (by decide : 4096 < 0xFF1 + 16), (by decide : 4096 < 0xFFF + 2)⟩
/-- The last values at which the conditions do not hold. -/
theorem witness_InstructionsFaultExactlyWhenTheirRuleSays : (depth2 [0x300#16]).halted = false ∧
    ¬faultsAtExecute .ret (depth2 [0x300#16]) ∧ ¬faultsAtExecute (.call 0x300#12) (depth2 [0x300#16]) ∧
    ¬faultsAtExecute (.drw 0x0#4 0x0#4 0x1#4) (State.reset.setIdx 0xFFF#12) ∧
    ¬faultsAtExecute (.bcd 0x0#4) (State.reset.setIdx 0xFFD#12) ∧ ¬faultsAtExecute (.stm 0xF#4) (State.reset.setIdx 0xFF0#12) ∧
    ¬faultsAtExecute (.ldm 0x0#4) (State.reset.setIdx 0xFFF#12) ∧ ¬faultsAtExecute .cls dead :=
  ⟨rfl, (fun h => nomatch h), (fun h => nomatch h), fun h => absurd h.2 (by decide : ¬(4096 < 0xFFF + 1)),
    (by decide : ¬(4096 < 0xFFD + 3)), (by decide : ¬(4096 < 0xFF0 + 16)), (by decide : ¬(4096 < 0xFFF + 1)), fun h => h⟩
theorem witness_OnlyResetLeavesTheHaltedState : dead.halted = true ∧
    HostEvent.reset ∉ [HostEvent.tick, .stop, .loadRom [0x12#8, 0x00#8], .start, .keys 0xFFFF#16, .rnd 0x5A#8, .tick] :=
  ⟨rfl, by decide⟩

/-- A machine about to store two registers over its own next instruction. -/
def storing : State := (State.reset.setIdx 0x202#12).withFetchWord 16 0xF155

theorem witness_EveryTickKeepsMemoryCanonical : storing.MemOk ∧ ∃ t, step storing = .next t := ⟨by unfold State.MemOk; decide, _, rfl⟩
/-- At the largest PC a tick can run from and the largest it leaves. -/
theorem witness_EveryTickKeepsPcBound : (placedLast 0x5000).PcOk ∧ ∃ t, step (placedLast 0x5000) = .next t ∧ t.pc = 0x1002#16 :=
  ⟨⟨by decide, (fun _ h => nomatch h)⟩, _, rfl, rfl⟩
theorem witness_EveryTickKeepsStackBound : (depth2 [0x400#16, 0x300#16]).StackOk ∧
    ∃ t, step (depth2 [0x400#16, 0x300#16]) = .next t := by
  refine ⟨fun d h => ?_, _, rfl⟩
  obtain rfl : 2 = d := Option.some.inj h
  decide
theorem witness_EveryTickKeepsFaultRecordLegal : State.reset.PcOk ∧ State.reset.RecordOk ∧ step State.reset = .next dead :=
  ⟨⟨by decide, (fun _ h => nomatch h)⟩, ⟨fun _ => ⟨rfl, rfl⟩, (fun h => nomatch h)⟩, rfl⟩
theorem witness_EveryEventSequenceKeepsTheInvariants : State.reset.Inv :=
  ⟨rfl, ⟨by decide, (fun _ h => nomatch h)⟩, (fun _ h => nomatch h), fun _ => ⟨rfl, rfl⟩, (fun h => nomatch h)⟩
theorem witness_CanonicalMemoriesWithTheSameBytesAreEqual :
    Memory.wf customaryFont [(0, 0xAB#8), (0xFFF, 0x01#8)] = true ∧
    ∀ a, Memory.read customaryFont [(0, 0xAB#8), (0xFFF, 0x01#8)] a = Memory.read customaryFont [(0, 0xAB#8), (0xFFF, 0x01#8)] a :=
  ⟨by decide, fun _ => rfl⟩
/-- The check of the canonical form refuses a wrong order, an address outside memory and a byte that reads so unlisted. -/
theorem test_memory_form_refuses : Memory.wf customaryFont [(1, 0xAB#8), (0, 0xAB#8)] = false ∧
    Memory.wf customaryFont [(0x1000, 0x01#8)] = false ∧ Memory.wf customaryFont [(0, 0xF0#8)] = false ∧
    Memory.wf customaryFont [(0x200, 0x00#8)] = false := by decide
theorem witness_InstructionsChangeOnlyWhatTable31Lists : (∃ t, exec (.stm 0x1#4) storing = .next t) ∧
    ¬faultsAtExecute (.stm 0x1#4) storing ∧ (∃ t, exec .ret State.reset = .next t) ∧ faultsAtExecute .ret State.reset :=
  ⟨⟨_, rfl⟩, (by decide : ¬(4096 < 0x202 + 2)), ⟨_, rfl⟩, rfl⟩

/-! ### Witnesses for the statements about one instruction -/

theorem witness_XorClears : (0xF#4 : Nibble) = 0xF#4 ∧ ((0x0#4 : Nibble) ≠ regF) := by decide
theorem witness_SkipConditions : (regs [(0xA#4, 5#8)]).reg 0xA#4 = 5#8 ∧ (regs [(0xA#4, 5#8)]).reg 0xA#4 ≠ 6#8 ∧
    (regs [(0xA#4, 5#8)]).reg 0xA#4 ≠ (regs [(0xA#4, 5#8)]).reg 0x0#4 ∧ (0xF#4 : Nibble) ≠ 0#4 ∧
    (State.reset.setKeys 0x8000#16).keys.getLsbD (0xF#4 : Nibble).toNat = true ∧
    (State.reset.setKeys 0x8000#16).keys.getLsbD (0x0#4 : Nibble).toNat = false ∧ State.reset.halted = false := by decide
/-- A finite stack with one entry left, and the unbounded one. -/
theorem witness_CallPushesTheReturnAddress :
    (∀ d, (depth2 [0x300#16]).params.stackDepth = some d → (depth2 [0x300#16]).stack.length < d) ∧
    (∀ d, State.reset.params.stackDepth = some d → State.reset.stack.length < d) := by
  refine ⟨fun d h => ?_, fun d h => by cases h⟩
  obtain rfl : 2 = d := Option.some.inj h
  decide
theorem witness_RetPopsIntoPc : (depth2 [0x1000#16, 0x300#16]).stack = 0x1000#16 :: [0x300#16] := rfl

/-- CALL 0xFFE at 0x200 and RET in the last two bytes of memory. -/
def roundTrip : State := (placed 0x2FFE).storeRun 0xFFE [0x00#8, 0xEE#8]

theorem witness_CallThenRetResumesAfterTheCall : roundTrip.Running ∧
    (∀ d, roundTrip.params.stackDepth = some d → roundTrip.stack.length < d) ∧ fetchDecode roundTrip = .ok (.call 0xFFE#12) ∧
    (0xFFE#12 : Addr).toNat ≤ 0xFFE ∧ roundTrip.byte (0xFFE#12 : Addr).toNat = 0x00#8 ∧
    roundTrip.byte ((0xFFE#12 : Addr).toNat + 1) = 0xEE#8 :=
  ⟨⟨rfl, rfl⟩, (fun _ h => nomatch h), rfl, by decide, by decide, by decide⟩
/-- No rows at the top of memory, and a last row at the last byte. -/
theorem witness_DrwXorsTheSpriteAndReportsCollision :
    ((0#4 : Nibble) = 0#4 ∨ (State.reset.setIdx 0xFFF#12).idx.toNat + (0#4 : Nibble).toNat ≤ 4096) ∧
    ((15#4 : Nibble) = 0#4 ∨ (State.reset.setIdx 0xFF1#12).idx.toNat + (15#4 : Nibble).toNat ≤ 4096) := by decide

/-- The first and the second draw of glyph 0 at (0, 0), from a clear framebuffer. -/
theorem witness_DrawingTwiceRestoresTheFramebuffer : (0x0#4 : Nibble) ≠ regF ∧ (0x1#4 : Nibble) ≠ regF ∧
    (5#4 = (0#4 : Nibble) ∨ State.reset.idx.toNat + (5#4 : Nibble).toNat ≤ 4096) ∧
    (∃ t u, exec (.drw 0x0#4 0x1#4 0x5#4) State.reset = .next t ∧ exec (.drw 0x0#4 0x1#4 0x5#4) t = .next u) ∧
    ∀ px py, State.reset.pixel px py = false :=
  ⟨by decide, by decide, by decide, ⟨_, _, rfl, rfl⟩, fun px py => FrameBuffer.cell_clear px py⟩
theorem witness_LddtAndStdtMoveTheDelayTimer : State.reset.halted = false := rfl
theorem witness_StstSetsTheSoundTimer : (regs [(0x3#4, 1#8)]).halted = false ∧ ((regs [(0x3#4, 1#8)]).reg 0x3#4).toNat ≤ 1 := by decide
theorem witness_BcdStoresTheDecimalDigits : (State.reset.setIdx 0xFFD#12).idx.toNat + 2 < 4096 := by decide
theorem witness_StmStoresTheRegisters : (State.reset.setIdx 0xFF0#12).idx.toNat + (0xF#4 : Nibble).toNat < 4096 := by decide
theorem witness_LdmLoadsTheRegisters : (State.reset.setIdx 0xFFF#12).idx.toNat + (0x0#4 : Nibble).toNat < 4096 := by decide
theorem witness_LdmAfterStmRestoresTheRegisters : (regs [(0x1#4, 9#8)]).idx.toNat + (0x1#4 : Nibble).toNat < 4096 ∧
    ∃ t u : State, exec (.stm 0x1#4) (regs [(0x1#4, 9#8)]) = .next t ∧ u.idx = t.idx ∧ (∀ a, u.byte a = t.byte a) ∧ u.reg 0x1#4 = 0#8 :=
  ⟨by decide, _, (State.setReg _ 0x1#4 0#8), rfl, rfl, fun _ => rfl, by decide⟩
theorem witness_NextFetchSeesTheStore : storing.idx.toNat + (0x1#4 : Nibble).toNat < 4096 ∧ (0x0#4 : Nibble).toNat < (0x1#4 : Nibble).toNat ∧
    storing.pc.toNat + 2 = storing.idx.toNat + (0x0#4 : Nibble).toNat ∧ ∃ t, exec (.stm 0x1#4) storing = .next t :=
  ⟨by decide, by decide, by decide, _, rfl⟩
theorem witness_CompletedTickLowersTheTimers : (placed 0xF015).Running ∧ fetchDecode (placed 0xF015) = .ok (.stdt 0x0#4) ∧
    ∃ t, step (placed 0xF015) = .next t ∧ t.halted = false := ⟨⟨rfl, rfl⟩, rfl, _, rfl, rfl⟩
theorem witness_FinishedMachineOnlyCountsDown : (placed 0x1200).run = true ∧ (placed 0x1200).Finished :=
  ⟨rfl, rfl, 0x200#12, rfl, rfl⟩
theorem witness_InputsReachOnlyTheInstructionsThatSampleThem : samplesKeys (.rnd 0x0#4 0xFF#8) = false ∧
    samplesRnd (.skp 0x0#4) = false := by decide
/-- The smallest and the largest ROM that load, and the smallest that does not. -/
theorem witness_LoadRomCopiesAllOrNothing : ([] : List Byte).length ≤ 3584 ∧ (List.replicate 3584 0x60#8).length ≤ 3584 ∧
    3584 < (List.replicate 3585 0x60#8).length := by simp only [List.length_replicate]; decide
theorem witness_StopAndStartLoseNothing : dead.halted = true := rfl
theorem witness_BootRunsTheFirstRomInstruction : [0x60#8, 0x05#8, 0x61#8].length ≤ 3584 ∧
    decodeBytes [0x60#8, 0x05#8, 0x61#8] = .ok (.ldb 0x0#4 0x05#8, [0x61#8]) := by decide

end Sys2Proof.Tests
end

section
/-! SUPPORT. The encoding clause of a format XB instruction (R62, R64), the frame of an assignment to PC, and all that the
shared skip can do (R96). -/

namespace Sys2Proof.Machine

/-! ## Format XB (R62) -/

/-- A format XB word is its group in the top nibble, OR `X << 8`, OR `NN`. -/
theorem encodeXB_eq_wordXB (g x : Nibble) (nn : Byte) :
    encodeXB g x nn = wordXB (g.setWidth 16 <<< 12) x nn := by
  unfold encodeXB wordXB
  ext k hk
  simp
  grind

/-- The mask of an XB row keeps the group alone. -/
theorem encodeXB_and_mask (g x : Nibble) (nn : Byte) :
    encodeXB g x nn &&& 0xF000#16 = g.setWidth 16 <<< 12 := by
  calc encodeXB g x nn &&& 0xF000#16
      = (g ++ x ++ nn) &&& (0xF#4 ++ 0#4 ++ 0#8) := rfl
    _ = (g &&& 0xF#4) ++ 0#4 ++ 0#8 := by simp only [BitVec.and_append, BitVec.and_zero]
    _ = g.setWidth 16 <<< 12 := by revert g; decide

/-- The encoding clause of an XB instruction follows from its format, its encoder arm and its row of the decode table. -/
theorem encodes_xb {i : Instr} {g x : Nibble} {nn : Byte} {pattern : Word} (hf : i.format = .xb)
    (he : encode i = encodeXB g x nn) (hd : decodeRow (encodeXB g x nn) = some i)
    (hp : pattern = g.setWidth 16 <<< 12) : Encodes i .xb pattern 0xF000#16 (wordXB pattern x nn) := by
  subst hp
  rw [← encodeXB_eq_wordXB]
  exact ⟨hf, he, decode_eq_ok.mpr hd, encodeXB_and_mask g x nn⟩

/-! ## The skip (R96) -/

/-- Assigning PC changes nothing else, so it meets every frame. -/
theorem frameBut_setPc (c : MayChange) (s : State) (p : Word) : FrameBut c s (s.setPc p) := by
  simp [FrameBut, SameFaultRecord, SameInputs]

/-- R96: a skip always completes, only PC changes, and it moves by 4 when the condition holds and by 2 when it does not. -/
theorem skipIf_spec (c : Bool) (s : State) :
    ∃ t, skipIf c s = .next t ∧ FrameBut {} s t ∧
      (c = true → t.pc = s.pc + 4#16) ∧ (c = false → t.pc = s.pc + 2#16) := by
  cases c with
  | true => exact ⟨s.skip, rfl, frameBut_setPc _ s _, fun _ => rfl, nofun⟩
  | false => exact ⟨s.advance, rfl, frameBut_setPc _ s _, nofun, fun _ => rfl⟩

end Sys2Proof.Machine
end

section
/-! PROOFS. The byte skips SEB and SNEB (spec/41_skip.md). -/

namespace Sys2Proof.Machine

theorem encodes_seb (x : Nibble) (nn : Byte) :
    Encodes (.seb x nn) .xb 0x3000#16 0xF000#16 (wordXB 0x3000#16 x nn) :=
  encodes_xb rfl rfl (by simp [decodeRow]) (by decide)

theorem encodes_sneb (x : Nibble) (nn : Byte) :
    Encodes (.sneb x nn) .xb 0x4000#16 0xF000#16 (wordXB 0x4000#16 x nn) :=
  encodes_xb rfl rfl (by simp [decodeRow]) (by decide)

theorem exec_seb (x : Nibble) (nn : Byte) (s : State) : exec (.seb x nn) s = skipIf (s.reg x == nn) s := rfl

theorem exec_sneb (x : Nibble) (nn : Byte) (s : State) : exec (.sneb x nn) s = skipIf (s.reg x != nn) s := rfl

/-- Settles O34: both are the shared skip, on the comparison of V[X] with NN and on its negation. -/
theorem sebAndSnebSkipOnTheByte : Obligations.SebAndSnebSkipOnTheByte := by
  intro x nn s
  refine ⟨⟨encodes_seb x nn, ?_⟩, encodes_sneb x nn, ?_⟩
  · obtain ⟨t, hexec, hframe, hskip, hadvance⟩ := skipIf_spec (s.reg x == nn) s
    exact ⟨t, (exec_seb x nn s).trans hexec, hframe, fun h => hskip (beq_iff_eq.mpr h),
      fun h => hadvance (beq_eq_false_iff_ne.mpr h)⟩
  · obtain ⟨t, hexec, hframe, hskip, hadvance⟩ := skipIf_spec (s.reg x != nn) s
    exact ⟨t, (exec_sneb x nn s).trans hexec, hframe, fun h => hskip (bne_iff_ne.mpr h),
      fun h => hadvance (bne_eq_false_iff_eq.mpr h)⟩

end Sys2Proof.Machine
end

section
/-! SUPPORT. The encoding clause of a format A instruction (R62, R64), and the frames of single writes, which compose. -/

namespace Sys2Proof.Machine

/-! ## Format A (R62) -/

/-- A format A word is its group in the top nibble, OR `NNN`. -/
theorem encodeA_eq_wordA (g : Nibble) (nnn : Addr) : encodeA g nnn = wordA (g.setWidth 16 <<< 12) nnn := by
  unfold encodeA wordA
  ext k hk
  simp
  grind

/-- The mask of an A row keeps the group alone. -/
theorem encodeA_and_mask (g : Nibble) (nnn : Addr) : encodeA g nnn &&& 0xF000#16 = g.setWidth 16 <<< 12 := by
  calc encodeA g nnn &&& 0xF000#16
      = (g ++ nnn) &&& (0xF#4 ++ 0#12) := rfl
    _ = (g &&& 0xF#4) ++ 0#12 := by simp only [BitVec.and_append, BitVec.and_zero]
    _ = g.setWidth 16 <<< 12 := by revert g; decide

/-- The encoding clause of an A instruction follows from its format, its encoder arm and its row of the decode table. -/
theorem encodes_a {i : Instr} {g : Nibble} {nnn : Addr} {pattern : Word} (hf : i.format = .a)
    (he : encode i = encodeA g nnn) (hd : decodeRow (encodeA g nnn) = some i)
    (hp : pattern = g.setWidth 16 <<< 12) : Encodes i .a pattern 0xF000#16 (wordA pattern nnn) := by
  subst hp
  rw [← encodeA_eq_wordA]
  exact ⟨hf, he, decode_eq_ok.mpr hd, encodeA_and_mask g nnn⟩

/-! ## Frames of single writes (R31) -/

/-- Frames compose: what neither step may change, both together leave. -/
theorem FrameBut.trans {c : MayChange} {s t u : State} (hst : FrameBut c s t) (htu : FrameBut c t u) :
    FrameBut c s u := by
  obtain ⟨reg, idx, stack, display, dt, st, mem, ⟨halted, code, info⟩, keys, rnd, run, samples, params⟩ := hst
  obtain ⟨reg', idx', stack', display', dt', st', mem', ⟨halted', code', info'⟩, keys', rnd', run', samples',
    params'⟩ := htu
  exact ⟨fun z h => (reg' z h).trans (reg z h), fun h => (idx' h).trans (idx h),
    fun h => (stack' h).trans (stack h),
    fun h => ⟨fun x y => ((display' h).1 x y).trans ((display h).1 x y), (display' h).2.trans (display h).2⟩,
    fun h => (dt' h).trans (dt h), fun h => (st' h).trans (st h), fun a h => (mem' a h).trans (mem a h),
    ⟨halted'.trans halted, code'.trans code, info'.trans info⟩,
    keys'.trans keys, rnd'.trans rnd, run'.trans run, samples'.trans samples, params'.trans params⟩

/-- Advancing PC stays inside every frame. -/
theorem FrameBut.advance {c : MayChange} {s t : State} (h : FrameBut c s t) : FrameBut c s t.advance :=
  h.trans (frameBut_setPc c t _)

/-- A register write changes that register alone. -/
theorem frameBut_setReg {c : MayChange} {x : Nibble} (hx : c.reg x) (s : State) (b : Byte) :
    FrameBut c s (s.setReg x b) := by
  have hreg : ∀ z, ¬c.reg z → (s.setReg x b).reg z = s.reg z := by
    intro z hz
    have hne : z ≠ x := fun h => hz (h ▸ hx)
    rw [State.reg_setReg, if_neg hne]
  exact ⟨hreg, by simp [SameFaultRecord, SameInputs]⟩

/-- A write of I changes I alone. -/
theorem frameBut_setIdx {c : MayChange} (hc : c.idx) (s : State) (a : Addr) : FrameBut c s (s.setIdx a) := by
  simp [FrameBut, SameFaultRecord, SameInputs, hc]

end Sys2Proof.Machine
end

section
/-! PROOFS. The immediate loads LDB, ADDB and LDI (spec/42_immediate.md). -/

namespace Sys2Proof.Machine

theorem encodes_ldb (x : Nibble) (nn : Byte) :
    Encodes (.ldb x nn) .xb 0x6000#16 0xF000#16 (wordXB 0x6000#16 x nn) :=
  encodes_xb rfl rfl (by simp [decodeRow]) (by decide)

theorem encodes_addb (x : Nibble) (nn : Byte) :
    Encodes (.addb x nn) .xb 0x7000#16 0xF000#16 (wordXB 0x7000#16 x nn) :=
  encodes_xb rfl rfl (by simp [decodeRow]) (by decide)

theorem encodes_ldi (nnn : Addr) : Encodes (.ldi nnn) .a 0xA000#16 0xF000#16 (wordA 0xA000#16 nnn) :=
  encodes_a rfl rfl (by simp [decodeRow]) (by decide)

theorem exec_ldb (x : Nibble) (nn : Byte) (s : State) : exec (.ldb x nn) s = .next (s.setReg x nn).advance := rfl

theorem exec_addb (x : Nibble) (nn : Byte) (s : State) :
    exec (.addb x nn) s = .next (s.setReg x (s.reg x + nn)).advance := rfl

theorem exec_ldi (nnn : Addr) (s : State) : exec (.ldi nnn) s = .next (s.setIdx nnn).advance := rfl

/-- Settles O25: LDB is one register write and the advance. -/
theorem ldbLoadsTheByte : Obligations.LdbLoadsTheByte := by
  intro x nn s
  have hresult : (s.setReg x nn).advance.reg x = nn := by
    rw [State.advance_reg, State.reg_setReg_self]
  exact ⟨encodes_ldb x nn, _, exec_ldb x nn s, hresult, rfl, (frameBut_setReg rfl s nn).advance⟩

/-- Settles O26: ADDB is one register write and the advance; the sum of bytes is the sum modulo 256 (R120). -/
theorem addbAddsModulo256WithoutFlag : Obligations.AddbAddsModulo256WithoutFlag := by
  intro x nn s
  have hresult : ((s.setReg x (s.reg x + nn)).advance.reg x).toNat = ((s.reg x).toNat + nn.toNat) % 256 := by
    rw [State.advance_reg, State.reg_setReg_self, BitVec.toNat_add]
  exact ⟨encodes_addb x nn, _, exec_addb x nn s, hresult, rfl, (frameBut_setReg rfl s _).advance⟩

/-- Settles O27: LDI is one write of I and the advance, with no check of the address. -/
theorem ldiLoadsTheIndexRegister : Obligations.LdiLoadsTheIndexRegister := by
  intro nnn s
  exact ⟨encodes_ldi nnn, _, exec_ldi nnn s, rfl, rfl, (frameBut_setIdx trivial s nnn).advance⟩

end Sys2Proof.Machine
end

section
/-! SUPPORT. The encoding clause of a format XY instruction (R62, R64): the group and the low nibble are fixed. -/

namespace Sys2Proof.Machine

/-- A format XY word is its group and low nibble, OR `X << 8`, OR `Y << 4`. -/
theorem encodeXY_eq_wordXY (g x y n : Nibble) :
    encodeXY g x y n = wordXY (g.setWidth 16 <<< 12 ||| n.setWidth 16) x y := by
  unfold encodeXY wordXY
  ext k hk
  simp
  grind

/-- The mask of an XY row keeps the group and the low nibble. -/
theorem encodeXY_and_mask (g x y n : Nibble) :
    encodeXY g x y n &&& 0xF00F#16 = g.setWidth 16 <<< 12 ||| n.setWidth 16 := by
  calc encodeXY g x y n &&& 0xF00F#16
      = (g ++ x ++ y ++ n) &&& (0xF#4 ++ 0#4 ++ 0#4 ++ 0xF#4) := rfl
    _ = (g &&& 0xF#4) ++ 0#4 ++ 0#4 ++ (n &&& 0xF#4) := by simp only [BitVec.and_append, BitVec.and_zero]
    _ = g.setWidth 16 <<< 12 ||| n.setWidth 16 := by revert g n; decide

/-- The encoding clause of an XY instruction follows from its format, its encoder arm and its row of the decode table. -/
theorem encodes_xy {i : Instr} {g x y n : Nibble} {pattern : Word} (hf : i.format = .xy)
    (he : encode i = encodeXY g x y n) (hd : decodeRow (encodeXY g x y n) = some i)
    (hp : pattern = g.setWidth 16 <<< 12 ||| n.setWidth 16) :
    Encodes i .xy pattern 0xF00F#16 (wordXY pattern x y) := by
  subst hp
  rw [← encodeXY_eq_wordXY]
  exact ⟨hf, he, decode_eq_ok.mpr hd, encodeXY_and_mask g x y n⟩

end Sys2Proof.Machine
end

section
/-! PROOFS. The register copy MOV (spec/43_alu.md). -/

namespace Sys2Proof.Machine

theorem encodes_mov (x y : Nibble) : Encodes (.mov x y) .xy 0x8000#16 0xF00F#16 (wordXY 0x8000#16 x y) :=
  encodes_xy rfl rfl (by simp [decodeRow, decode8]) (by decide)

theorem exec_mov (x y : Nibble) (s : State) : exec (.mov x y) s = .next (s.setReg x (s.reg y)).advance := rfl

/-- Settles O29: MOV is one write of V[Y], read before it, to V[X] and the advance. -/
theorem movCopiesTheRegister : Obligations.MovCopiesTheRegister := by
  intro x y s
  have hresult : (s.setReg x (s.reg y)).advance.reg x = s.reg y := by
    rw [State.advance_reg, State.reg_setReg_self]
  exact ⟨encodes_mov x y, _, exec_mov x y s, hresult, rfl, (frameBut_setReg rfl s _).advance⟩

end Sys2Proof.Machine
end

section
/-! SUPPORT. The encoding clause of a format XF instruction (R62, R64), the frame of a write of DT, and the delay timer at the
end of a completed tick (R171). -/

namespace Sys2Proof.Machine

/-! ## Format XF (R62) -/

/-- A format XF word is its group and fixed low byte, OR `X << 8`. -/
theorem encodeXB_eq_wordX (g x : Nibble) (low : Byte) :
    encodeXB g x low = wordX (g.setWidth 16 <<< 12 ||| low.setWidth 16) x := by
  rw [encodeXB_eq_wordXB]
  unfold wordXB wordX
  ac_rfl

/-- The mask of an XF row keeps the group and the low byte. -/
theorem encodeXB_and_mask_xf (g x : Nibble) (low : Byte) :
    encodeXB g x low &&& 0xF0FF#16 = g.setWidth 16 <<< 12 ||| low.setWidth 16 := by
  calc encodeXB g x low &&& 0xF0FF#16
      = (g ++ x ++ low) &&& (0xF#4 ++ 0#4 ++ 0xFF#8) := rfl
    _ = (g &&& BitVec.allOnes 4) ++ 0#4 ++ (low &&& BitVec.allOnes 8) := by
        simp only [BitVec.and_append, BitVec.and_zero]; rfl
    _ = encodeXB g 0#4 low := by simp only [BitVec.and_allOnes]; rfl
    _ = g.setWidth 16 <<< 12 ||| low.setWidth 16 := by simp [encodeXB_eq_wordX, wordX]

/-- The encoding clause of an XF instruction follows from its format, its encoder arm and its row of the decode table. -/
theorem encodes_xf {i : Instr} {g x : Nibble} {low : Byte} {pattern : Word} (hf : i.format = .xf)
    (he : encode i = encodeXB g x low) (hd : decodeRow (encodeXB g x low) = some i)
    (hp : pattern = g.setWidth 16 <<< 12 ||| low.setWidth 16) : Encodes i .xf pattern 0xF0FF#16 (wordX pattern x) := by
  subst hp
  rw [← encodeXB_eq_wordX]
  exact ⟨hf, he, decode_eq_ok.mpr hd, encodeXB_and_mask_xf g x low⟩

/-! ## The delay timer (R31, R171) -/

/-- A write of DT changes DT alone. -/
theorem frameBut_setDt {c : MayChange} (hc : c.dt) (s : State) (b : Byte) : FrameBut c s (s.setDt b) := by
  simp [FrameBut, SameFaultRecord, SameInputs, hc]

/-- A completed tick ends with DT one lower, floor 0. -/
theorem toNat_finishTick_dt (i : Instr) {t : State} (h : t.halted = false) :
    (finishTick i t).dt.toNat = t.dt.toNat - 1 := by
  obtain ⟨hdt, -⟩ := finishTick_timers (i := i) h
  rw [hdt, toNat_countDown]

end Sys2Proof.Machine
end

section
/-! PROOFS. The delay timer moves LDDT and STDT, and FONT (spec/45_timer_index_memory.md). -/

namespace Sys2Proof.Machine

theorem encodes_lddt (x : Nibble) : Encodes (.lddt x) .xf 0xF007#16 0xF0FF#16 (wordX 0xF007#16 x) :=
  encodes_xf rfl rfl (by simp [decodeRow, decodeF]) (by decide)

theorem encodes_stdt (x : Nibble) : Encodes (.stdt x) .xf 0xF015#16 0xF0FF#16 (wordX 0xF015#16 x) :=
  encodes_xf rfl rfl (by simp [decodeRow, decodeF]) (by decide)

theorem encodes_font (x : Nibble) : Encodes (.font x) .xf 0xF029#16 0xF0FF#16 (wordX 0xF029#16 x) :=
  encodes_xf rfl rfl (by simp [decodeRow, decodeF]) (by decide)

theorem exec_lddt (x : Nibble) (s : State) : exec (.lddt x) s = .next (s.setReg x s.dt).advance := rfl

theorem exec_stdt (x : Nibble) (s : State) : exec (.stdt x) s = .next (s.setDt (s.reg x)).advance := rfl

theorem exec_font (x : Nibble) (s : State) : exec (.font x) s = .next (s.setIdx (glyphBase (s.reg x))).advance := rfl

/-- The register LDDT writes holds the DT it read. -/
theorem reg_lddt (x : Nibble) (s : State) : (s.setReg x s.dt).advance.reg x = s.dt := by
  rw [State.advance_reg, State.reg_setReg_self]

/-- The multiplied byte fits I, so nothing is reduced: 255 * 5 < 4096. -/
theorem toNat_glyphBase (a : Byte) : (glyphBase a).toNat = a.toNat * 5 := by
  have hfits : a.toNat * 5 < 2 ^ 12 := by have := a.isLt; omega
  exact Nat.mod_eq_of_lt hfits

/-- Settles O44: each is one write and the advance, and the countdown comes after the write, so an LDDT in the next tick reads
what STDT wrote one lower. -/
theorem lddtAndStdtMoveTheDelayTimer : Obligations.LddtAndStdtMoveTheDelayTimer := by
  intro x y s hs
  refine ⟨⟨encodes_lddt x, _, exec_lddt x s, reg_lddt x s, rfl, (frameBut_setReg rfl s _).advance,
    toNat_finishTick_dt _ hs, ?_⟩, encodes_stdt x, ?_⟩
  · rw [finishTick_reg, reg_lddt]
  · have hdt : (finishTick (.stdt x) (s.setDt (s.reg x)).advance).dt.toNat = (s.reg x).toNat - 1 :=
      toNat_finishTick_dt _ hs
    refine ⟨_, exec_stdt x s, rfl, rfl, (frameBut_setDt trivial s _).advance, hdt, _, exec_lddt y _, ?_⟩
    rw [reg_lddt, hdt]

/-- Settles O47: FONT is one write of I and the advance, and the product fits I. -/
theorem fontPointsAtFiveTimesTheRegister : Obligations.FontPointsAtFiveTimesTheRegister := by
  intro x s
  exact ⟨encodes_font x, _, exec_font x s, toNat_glyphBase _, rfl, (frameBut_setIdx trivial s _).advance⟩

end Sys2Proof.Machine
end

section
/-! SUPPORT. Decoding and encoding as inverses of each other (R61, R62, R64): the decode table at an encoded word, and the
fields of a word that the table reads. -/

namespace Sys2Proof

/-- Every instruction is well formed: its operands have the widths of their fields (R61, R68). -/
theorem Instr.wellFormed_eq_true (i : Instr) : i.wellFormed = true := by
  cases i with
  | cls => exact Laws.OperandsFit.cls
  | ret => exact Laws.OperandsFit.ret
  | jp nnn => exact Laws.OperandsFit.jp nnn
  | call nnn => exact Laws.OperandsFit.call nnn
  | seb x nn => exact Laws.OperandsFit.seb x nn
  | sneb x nn => exact Laws.OperandsFit.sneb x nn
  | se x y => exact Laws.OperandsFit.se x y
  | ldb x nn => exact Laws.OperandsFit.ldb x nn
  | addb x nn => exact Laws.OperandsFit.addb x nn
  | mov x y => exact Laws.OperandsFit.mov x y
  | or x y => exact Laws.OperandsFit.or x y
  | and x y => exact Laws.OperandsFit.and x y
  | xor x y => exact Laws.OperandsFit.xor x y
  | add x y => exact Laws.OperandsFit.add x y
  | sub x y => exact Laws.OperandsFit.sub x y
  | shr x y => exact Laws.OperandsFit.shr x y
  | subn x y => exact Laws.OperandsFit.subn x y
  | shl x y => exact Laws.OperandsFit.shl x y
  | sne x y => exact Laws.OperandsFit.sne x y
  | ldi nnn => exact Laws.OperandsFit.ldi nnn
  | jpv x nn => exact Laws.OperandsFit.jpv x nn
  | rnd x nn => exact Laws.OperandsFit.rnd x nn
  | drw x y n => exact Laws.OperandsFit.drw x y n
  | skp x => exact Laws.OperandsFit.skp x
  | sknp x => exact Laws.OperandsFit.sknp x
  | lddt x => exact Laws.OperandsFit.lddt x
  | stdt x => exact Laws.OperandsFit.stdt x
  | stst x => exact Laws.OperandsFit.stst x
  | addi x => exact Laws.OperandsFit.addi x
  | font x => exact Laws.OperandsFit.font x
  | bcd x => exact Laws.OperandsFit.bcd x
  | stm x => exact Laws.OperandsFit.stm x
  | ldm x => exact Laws.OperandsFit.ldm x

/-- The decode table at an encoded word: the group picks the line of the table, and in groups 5, 8, 9, E and F the low
nibble or byte picks the instruction. -/
theorem decodeRow_encode (i : Instr) : decodeRow (encode i) = some i := by
  cases i with
  | cls | ret => rfl
  | jp | call | ldi => simp [encode, decodeRow]
  | seb | sneb | ldb | addb | jpv | rnd => simp [encode, decodeRow]
  | se | sne | drw => simp [encode, decodeRow]
  | mov | or | and | xor | add | sub | shr | subn | shl => simp [encode, decodeRow, decode8]
  | skp | sknp => simp [encode, decodeRow, decodeE]
  | lddt | stdt | stst | addi | font | bcd | stm | ldm => simp [encode, decodeRow, decodeF]

theorem decode_encode (i : Instr) : decode (encode i) = .ok i := decode_eq_ok.mpr (decodeRow_encode i)

/-- The bytes of an instruction in front of any others are read as that instruction (R45, R60). -/
theorem decodeBytes_encodeBytes_append (i : Instr) (rest : List Byte) :
    decodeBytes (encodeBytes i ++ rest) = .ok (i, rest) := by
  simp [encodeBytes, decodeBytes, decode_encode]

theorem decodeBytes_eq_ok_iff {bytes rest : List Byte} {i : Instr} : decodeBytes bytes = .ok (i, rest) ↔
    ∃ hi lo, bytes = hi :: lo :: rest ∧ decode (wordOfBytes hi lo) = .ok i := by
  constructor
  · intro h
    unfold decodeBytes at h
    split at h
    case h_1 hi lo tail => split at h <;> cases h; exact ⟨hi, lo, rfl, by assumption⟩
    case h_2 => cases h
  · rintro ⟨hi, lo, rfl, h⟩
    simp [decodeBytes, h]

/-! ## The encoder at the fields of a word -/

theorem encodeA_of_group {op : Word} {g : Nibble} (hg : (fieldG op).toNat = g.toNat) :
    encodeA g (fieldNNN op) = op := by
  rw [← BitVec.eq_of_toNat_eq hg, encodeA_fields]

theorem encodeXB_of_group {op : Word} {g : Nibble} (hg : (fieldG op).toNat = g.toNat) :
    encodeXB g (fieldX op) (fieldNN op) = op := by
  rw [← BitVec.eq_of_toNat_eq hg, encodeXB_fields]

theorem encodeXY_of_group {op : Word} {g : Nibble} (hg : (fieldG op).toNat = g.toNat) :
    encodeXY g (fieldX op) (fieldY op) (fieldN op) = op := by
  rw [← BitVec.eq_of_toNat_eq hg, encodeXY_fields]

theorem encodeXY_of_group_of_low {op : Word} {g n : Nibble} (hg : (fieldG op).toNat = g.toNat)
    (hn : (fieldN op).toNat = n.toNat) : encodeXY g (fieldX op) (fieldY op) n = op := by
  rw [← BitVec.eq_of_toNat_eq hn, encodeXY_of_group hg]

theorem encodeXB_of_group_of_low {op : Word} {g : Nibble} {low : Byte} (hg : (fieldG op).toNat = g.toNat)
    (hlow : fieldNN op = low) : encodeXB g (fieldX op) low = op := by
  rw [← hlow, encodeXB_of_group hg]

/-- Group 8 of the table names the word it is given. -/
theorem encode_of_decode8 {op : Word} {i : Instr} (hg : (fieldG op).toNat = (0x8#4).toNat)
    (h : decode8 op = some i) : encode i = op := by
  unfold decode8 at h
  split at h <;> cases h <;> rename_i hn <;> exact encodeXY_of_group_of_low hg hn

/-- Group E of the table names the word it is given. -/
theorem encode_of_decodeE {op : Word} {i : Instr} (hg : (fieldG op).toNat = (0xE#4).toNat)
    (h : decodeE op = some i) : encode i = op := by
  unfold decodeE at h
  split_ifs at h with h1 h2 <;> cases h
  exacts [encodeXB_of_group_of_low hg h1, encodeXB_of_group_of_low hg h2]

/-- Group F of the table names the word it is given. -/
theorem encode_of_decodeF {op : Word} {i : Instr} (hg : (fieldG op).toNat = (0xF#4).toNat)
    (h : decodeF op = some i) : encode i = op := by
  unfold decodeF at h
  split_ifs at h with h1 h2 h3 h4 h5 h6 h7 h8 <;> cases h <;> apply encodeXB_of_group_of_low hg <;> assumption

/-- The table names the word it is given: each line writes back the fields it read and the nibbles it checked. -/
theorem encode_of_decodeRow {op : Word} {i : Instr} (h : decodeRow op = some i) : encode i = op := by
  unfold decodeRow at h
  split at h
  -- group 0, whole words
  case h_1 => split_ifs at h with hcls hret <;> cases h <;> symm <;> assumption
  -- groups 1, 2 and A, format A
  case h_2 hg | h_3 hg | h_11 hg => cases h; exact encodeA_of_group hg
  -- groups 3, 4, 6, 7, B and C, format XB
  case h_4 hg | h_5 hg | h_7 hg | h_8 hg | h_12 hg | h_13 hg => cases h; exact encodeXB_of_group hg
  -- groups 5 and 9, format XY with low nibble 0
  case h_6 hg | h_10 hg => split_ifs at h with hn; cases h; exact encodeXY_of_group_of_low hg (congrArg _ hn)
  -- group D, format XYN
  case h_14 hg => cases h; exact encodeXY_of_group hg
  case h_9 hg => exact encode_of_decode8 hg h
  case h_15 hg => exact encode_of_decodeE hg h
  case h_16 hg =>
    have hlt := (fieldG op).isLt
    have hg : (fieldG op).toNat = 15 := by simp only [imp_false] at *; omega
    exact encode_of_decodeF hg h

/-! ## The rows that select a word (R64) -/

/-- The 16 values of a nibble. -/
theorem nibble_cases (g : Nibble) :
    g = 0x0#4 ∨ g = 0x1#4 ∨ g = 0x2#4 ∨ g = 0x3#4 ∨ g = 0x4#4 ∨ g = 0x5#4 ∨ g = 0x6#4 ∨ g = 0x7#4 ∨
    g = 0x8#4 ∨ g = 0x9#4 ∨ g = 0xA#4 ∨ g = 0xB#4 ∨ g = 0xC#4 ∨ g = 0xD#4 ∨ g = 0xE#4 ∨ g = 0xF#4 := by
  revert g; decide

theorem encodeXB_eq_iff {g x : Nibble} {nn : Byte} {p : Word} :
    encodeXB g x nn = p ↔ g = fieldG p ∧ x = fieldX p ∧ nn = fieldNN p :=
  ⟨by rintro rfl; simp, by rintro ⟨rfl, rfl, rfl⟩; simp⟩

theorem encodeXY_eq_iff {g x y n : Nibble} {p : Word} :
    encodeXY g x y n = p ↔ g = fieldG p ∧ x = fieldX p ∧ y = fieldY p ∧ n = fieldN p :=
  ⟨by rintro rfl; simp, by rintro ⟨rfl, rfl, rfl, rfl⟩; simp⟩

/-- The mask of formats A, XB and XYN clears all but the group. -/
theorem and_F000 (op : Word) : op &&& 0xF000#16 = encodeXB (fieldG op) 0#4 0#8 := by
  conv_lhs => rw [← encodeXB_fields op, Machine.encodeXB_and_mask]
  simp [Machine.encodeXB_eq_wordXB, Machine.wordXB]

/-- The mask of format XF clears X. -/
theorem and_F0FF (op : Word) : op &&& 0xF0FF#16 = encodeXB (fieldG op) 0#4 (fieldNN op) := by
  conv_lhs => rw [← encodeXB_fields op, Machine.encodeXB_and_mask_xf]
  simp [Machine.encodeXB_eq_wordX, Machine.wordX]

/-- The mask of format XY clears X and Y. -/
theorem and_F00F (op : Word) : op &&& 0xF00F#16 = encodeXY (fieldG op) 0#4 0#4 (fieldN op) := by
  conv_lhs => rw [← encodeXY_fields op, Machine.encodeXY_and_mask]
  simp [Machine.encodeXY_eq_wordXY, Machine.wordXY]

theorem and_F000_eq_iff {op p : Word} : op &&& 0xF000#16 = p ↔
    fieldG op = p.extractLsb' 12 4 ∧ 0#4 = p.extractLsb' 8 4 ∧ 0#8 = p.extractLsb' 0 8 := by
  rw [and_F000, encodeXB_eq_iff]; rfl

theorem and_F0FF_eq_iff {op p : Word} : op &&& 0xF0FF#16 = p ↔
    fieldG op = p.extractLsb' 12 4 ∧ 0#4 = p.extractLsb' 8 4 ∧ fieldNN op = p.extractLsb' 0 8 := by
  rw [and_F0FF, encodeXB_eq_iff]; rfl

theorem and_F00F_eq_iff {op p : Word} : op &&& 0xF00F#16 = p ↔
    fieldG op = p.extractLsb' 12 4 ∧ 0#4 = p.extractLsb' 8 4 ∧ 0#4 = p.extractLsb' 4 4 ∧
      fieldN op = p.extractLsb' 0 4 := by
  rw [and_F00F, encodeXY_eq_iff]; rfl

theorem and_FFFF_eq_iff {op p : Word} : op &&& 0xFFFF#16 = p ↔ fieldG op = p.extractLsb' 12 4 ∧ op = p := by
  have hall : op &&& 0xFFFF#16 = op := BitVec.and_allOnes
  rw [hall]
  exact ⟨fun h => ⟨congrArg fieldG h, h⟩, And.right⟩

/-! ## The words that are no instruction (R66) -/

theorem decode8_eq_none_iff {op : Word} :
    decode8 op = none ↔ fieldN op ∈ [0x8#4, 0x9#4, 0xA#4, 0xB#4, 0xC#4, 0xD#4, 0xF#4] := by
  unfold decode8
  generalize fieldN op = n
  rcases nibble_cases n with h | h | h | h | h | h | h | h | h | h | h | h | h | h | h | h <;> simp [h]

theorem decodeE_eq_none_iff {op : Word} : decodeE op = none ↔ fieldNN op ∉ [0x9E#8, 0xA1#8] := by
  unfold decodeE
  split_ifs <;> simp [*]

theorem decodeF_eq_none_iff {op : Word} : decodeF op = none ↔
    fieldNN op ∉ [0x07#8, 0x15#8, 0x18#8, 0x1E#8, 0x29#8, 0x33#8, 0x55#8, 0x65#8] := by
  unfold decodeF
  split_ifs <;> simp [*]

/-- R66, group by group: groups 1 to 4, 6, 7 and A to D have no unrecognized word. -/
theorem decodeRow_eq_none_iff {op : Word} : decodeRow op = none ↔
    (fieldG op = 0x0#4 ∧ op ≠ 0x00E0#16 ∧ op ≠ 0x00EE#16) ∨
    (fieldG op = 0x5#4 ∧ fieldN op ≠ 0#4) ∨
    (fieldG op = 0x8#4 ∧ fieldN op ∈ [0x8#4, 0x9#4, 0xA#4, 0xB#4, 0xC#4, 0xD#4, 0xF#4]) ∨
    (fieldG op = 0x9#4 ∧ fieldN op ≠ 0#4) ∨
    (fieldG op = 0xE#4 ∧ fieldNN op ∉ [0x9E#8, 0xA1#8]) ∨
    (fieldG op = 0xF#4 ∧ fieldNN op ∉ [0x07#8, 0x15#8, 0x18#8, 0x1E#8, 0x29#8, 0x33#8, 0x55#8, 0x65#8]) := by
  rw [← decode8_eq_none_iff, ← decodeE_eq_none_iff, ← decodeF_eq_none_iff]
  unfold decodeRow
  rcases nibble_cases (fieldG op) with
      hg | hg | hg | hg | hg | hg | hg | hg | hg | hg | hg | hg | hg | hg | hg | hg
  case inl => simp [hg, ite_eq_iff]
  all_goals simp [hg]

/-- The table of R64 selects the words the decoder accepts: the rows of the word's group compare the same low bits. -/
theorem recognized_eq_false_iff {op : Word} : recognized op = false ↔ decodeRow op = none := by
  rw [decodeRow_eq_none_iff]
  simp only [recognized, opcodeTable, opcodeTableLow, opcodeTableHigh, OpcodeRow.selects, List.cons_append,
    List.nil_append, List.any_cons, List.any_nil, Bool.or_eq_false_iff, decide_eq_false_iff_not, and_F000_eq_iff,
    and_true, and_F00F_eq_iff, and_F0FF_eq_iff, and_FFFF_eq_iff]
  rcases nibble_cases (fieldG op) with
      hg | hg | hg | hg | hg | hg | hg | hg | hg | hg | hg | hg | hg | hg | hg | hg
  case inr.inr.inr.inr.inr.inr.inr.inr.inl =>
    rcases nibble_cases (fieldN op) with
        h | h | h | h | h | h | h | h | h | h | h | h | h | h | h | h <;>
      simp [hg, h]
  all_goals simp [hg]

/-- No word is selected by two rows (R70(a)): two rows agree on the bits that both compare only when they are the same. -/
theorem selects_unique {op : Word} {r q : OpcodeRow} (hr : r ∈ opcodeTable) (hq : q ∈ opcodeTable)
    (hrs : r.selects op = true) (hqs : q.selects op = true) : r = q := by
  have hagree : ∀ r ∈ opcodeTable, ∀ q ∈ opcodeTable, r.pattern &&& q.mask = q.pattern &&& r.mask → r = q := by
    decide
  refine hagree r hr q hq ?_
  simp only [OpcodeRow.selects, decide_eq_true_eq] at hrs hqs
  rw [← hrs, ← hqs]
  ac_rfl

end Sys2Proof
end

section
/-! SUPPORT. The encoding clause of every instruction (R62, R64): one lemma per row of the table that has none yet, and the row
of each instruction with its operands in their fields (R68). -/

namespace Sys2Proof.Machine

theorem encodes_cls : Encodes .cls .w 0x00E0#16 0xFFFF#16 0x00E0#16 := ⟨rfl, rfl, decode_encode .cls, rfl⟩

theorem encodes_ret : Encodes .ret .w 0x00EE#16 0xFFFF#16 0x00EE#16 := ⟨rfl, rfl, decode_encode .ret, rfl⟩

theorem encodes_jp (nnn : Addr) : Encodes (.jp nnn) .a 0x1000#16 0xF000#16 (wordA 0x1000#16 nnn) :=
  encodes_a rfl rfl (decodeRow_encode (.jp nnn)) (by decide)

theorem encodes_call (nnn : Addr) : Encodes (.call nnn) .a 0x2000#16 0xF000#16 (wordA 0x2000#16 nnn) :=
  encodes_a rfl rfl (decodeRow_encode (.call nnn)) (by decide)

theorem encodes_jpv (x : Nibble) (nn : Byte) : Encodes (.jpv x nn) .xb 0xB000#16 0xF000#16 (wordXB 0xB000#16 x nn) :=
  encodes_xb rfl rfl (decodeRow_encode (.jpv x nn)) (by decide)

theorem encodes_rnd (x : Nibble) (nn : Byte) : Encodes (.rnd x nn) .xb 0xC000#16 0xF000#16 (wordXB 0xC000#16 x nn) :=
  encodes_xb rfl rfl (decodeRow_encode (.rnd x nn)) (by decide)

section
variable (x y : Nibble)

theorem encodes_se : Encodes (.se x y) .xy 0x5000#16 0xF00F#16 (wordXY 0x5000#16 x y) :=
  encodes_xy rfl rfl (decodeRow_encode (.se x y)) (by decide)

theorem encodes_or : Encodes (.or x y) .xy 0x8001#16 0xF00F#16 (wordXY 0x8001#16 x y) :=
  encodes_xy rfl rfl (decodeRow_encode (.or x y)) (by decide)

theorem encodes_and : Encodes (.and x y) .xy 0x8002#16 0xF00F#16 (wordXY 0x8002#16 x y) :=
  encodes_xy rfl rfl (decodeRow_encode (.and x y)) (by decide)

theorem encodes_xor : Encodes (.xor x y) .xy 0x8003#16 0xF00F#16 (wordXY 0x8003#16 x y) :=
  encodes_xy rfl rfl (decodeRow_encode (.xor x y)) (by decide)

theorem encodes_add : Encodes (.add x y) .xy 0x8004#16 0xF00F#16 (wordXY 0x8004#16 x y) :=
  encodes_xy rfl rfl (decodeRow_encode (.add x y)) (by decide)

theorem encodes_sub : Encodes (.sub x y) .xy 0x8005#16 0xF00F#16 (wordXY 0x8005#16 x y) :=
  encodes_xy rfl rfl (decodeRow_encode (.sub x y)) (by decide)

theorem encodes_shr : Encodes (.shr x y) .xy 0x8006#16 0xF00F#16 (wordXY 0x8006#16 x y) :=
  encodes_xy rfl rfl (decodeRow_encode (.shr x y)) (by decide)

theorem encodes_subn : Encodes (.subn x y) .xy 0x8007#16 0xF00F#16 (wordXY 0x8007#16 x y) :=
  encodes_xy rfl rfl (decodeRow_encode (.subn x y)) (by decide)

theorem encodes_shl : Encodes (.shl x y) .xy 0x800E#16 0xF00F#16 (wordXY 0x800E#16 x y) :=
  encodes_xy rfl rfl (decodeRow_encode (.shl x y)) (by decide)

theorem encodes_sne : Encodes (.sne x y) .xy 0x9000#16 0xF00F#16 (wordXY 0x9000#16 x y) :=
  encodes_xy rfl rfl (decodeRow_encode (.sne x y)) (by decide)

/-- A format XYN word is its group in the top nibble, OR `X << 8`, OR `Y << 4`, OR `N`. -/
theorem encodeXY_eq_wordXY_or (g n : Nibble) :
    encodeXY g x y n = wordXY (g.setWidth 16 <<< 12) x y ||| n.setWidth 16 := by
  rw [encodeXY_eq_wordXY]
  unfold wordXY
  ac_rfl

theorem encodes_drw (n : Nibble) :
    Encodes (.drw x y n) .xyn 0xD000#16 0xF000#16 (wordXY 0xD000#16 x y ||| n.setWidth 16) := by
  have hword : encode (.drw x y n) = wordXY 0xD000#16 x y ||| n.setWidth 16 := encodeXY_eq_wordXY_or x y 0xD#4 n
  have hmask : encode (.drw x y n) &&& 0xF000#16 = 0xD000#16 := by simp [and_F000_eq_iff, encode]
  rw [← hword]
  exact ⟨rfl, rfl, decode_encode _, hmask⟩

theorem encodes_skp : Encodes (.skp x) .xf 0xE09E#16 0xF0FF#16 (wordX 0xE09E#16 x) :=
  encodes_xf rfl rfl (decodeRow_encode (.skp x)) (by decide)

theorem encodes_sknp : Encodes (.sknp x) .xf 0xE0A1#16 0xF0FF#16 (wordX 0xE0A1#16 x) :=
  encodes_xf rfl rfl (decodeRow_encode (.sknp x)) (by decide)

theorem encodes_stst : Encodes (.stst x) .xf 0xF018#16 0xF0FF#16 (wordX 0xF018#16 x) :=
  encodes_xf rfl rfl (decodeRow_encode (.stst x)) (by decide)

theorem encodes_addi : Encodes (.addi x) .xf 0xF01E#16 0xF0FF#16 (wordX 0xF01E#16 x) :=
  encodes_xf rfl rfl (decodeRow_encode (.addi x)) (by decide)

theorem encodes_bcd : Encodes (.bcd x) .xf 0xF033#16 0xF0FF#16 (wordX 0xF033#16 x) :=
  encodes_xf rfl rfl (decodeRow_encode (.bcd x)) (by decide)

theorem encodes_stm : Encodes (.stm x) .xf 0xF055#16 0xF0FF#16 (wordX 0xF055#16 x) :=
  encodes_xf rfl rfl (decodeRow_encode (.stm x)) (by decide)

theorem encodes_ldm : Encodes (.ldm x) .xf 0xF065#16 0xF0FF#16 (wordX 0xF065#16 x) :=
  encodes_xf rfl rfl (decodeRow_encode (.ldm x)) (by decide)

end

/-! ## Operands in their fields (R68) -/

/-- A number written in two fields is their concatenation. -/
theorem toNat_append_eq_mul_add {m n : Nat} (a : BitVec m) (b : BitVec n) :
    (a ++ b).toNat = a.toNat * 2 ^ n + b.toNat := by
  rw [BitVec.toNat_append, ← Nat.shiftLeft_eq, Nat.shiftLeft_add_eq_or_of_lt b.isLt]

theorem or_placeOperands_a (p : Word) (nnn : Addr) : p ||| placeOperands .a [nnn.toNat] = wordA p nnn := by
  simp [placeOperands, wordA]

theorem or_placeOperands_xb (p : Word) (x : Nibble) (nn : Byte) :
    p ||| placeOperands .xb [x.toNat, nn.toNat] = wordXB p x nn := by
  have hplace : placeOperands .xb [x.toNat, nn.toNat] = (x ++ nn).setWidth 16 := by
    rw [← BitVec.ofNat_toNat, toNat_append_eq_mul_add]
    simp [placeOperands]
  rw [hplace, BitVec.setWidth_append_eq_shiftLeft_setWidth_or, ← BitVec.or_assoc, wordXB]

theorem placeOperands_xyn (x y n : Nibble) :
    placeOperands .xyn [x.toNat, y.toNat, n.toNat] = x.setWidth 16 <<< 8 ||| y.setWidth 16 <<< 4 ||| n.setWidth 16 := by
  have hplace : placeOperands .xyn [x.toNat, y.toNat, n.toNat] = (x ++ y ++ n).setWidth 16 := by
    have hsum : (x.toNat * 2 ^ 4 + y.toNat) * 2 ^ 4 + n.toNat = x.toNat * 256 + y.toNat * 16 + n.toNat := by
      omega
    rw [← BitVec.ofNat_toNat, toNat_append_eq_mul_add, toNat_append_eq_mul_add, hsum]
    simp [placeOperands]
  rw [hplace, BitVec.setWidth_append_append_eq_shiftLeft_setWidth_or]

theorem or_placeOperands_xyn (p : Word) (x y n : Nibble) :
    p ||| placeOperands .xyn [x.toNat, y.toNat, n.toNat] = wordXY p x y ||| n.setWidth 16 := by
  rw [placeOperands_xyn, wordXY]
  ac_rfl

theorem or_placeOperands_xy (p : Word) (x y : Nibble) : p ||| placeOperands .xy [x.toNat, y.toNat] = wordXY p x y := by
  have h : placeOperands .xy [x.toNat, y.toNat] = placeOperands .xyn [x.toNat, y.toNat, (0#4).toNat] := by
    simp [placeOperands]
  rw [h, or_placeOperands_xyn]
  simp

theorem or_placeOperands_xf (p : Word) (x : Nibble) : p ||| placeOperands .xf [x.toNat] = wordX p x := by
  have h : placeOperands .xf [x.toNat] = placeOperands .xb [x.toNat, (0#8).toNat] := by
    simp [placeOperands]
  rw [h, or_placeOperands_xb]
  simp [wordXB, wordX]

/-- The row of the table that carries the mnemonic of the instruction selects its word, and the word is the row's pattern with
the operands in their fields (R64, R68). -/
def HasRow (i : Instr) : Prop :=
  ∃ r, opcodeTable.find? (fun r => r.mnemonic == i.mnemonic) = some r ∧ encode i &&& r.mask = r.pattern ∧
    encode i = r.pattern ||| placeOperands i.format i.operands

/-- The encoding clause of an instruction gives its row, when the clause writes the word as the row does. -/
theorem Encodes.hasRow {i : Instr} {f : Format} {p m word : Word} (he : Encodes i f p m word)
    (hfind : opcodeTable.find? (fun r => r.mnemonic == i.mnemonic) = some ⟨i.mnemonic, p, m⟩)
    (hword : p ||| placeOperands f i.operands = word) : HasRow i := by
  obtain ⟨hformat, hencode, -, hmask⟩ := he
  exact ⟨_, hfind, by rw [hencode]; exact hmask, by rw [hencode, hformat]; exact hword.symm⟩

theorem hasRow (i : Instr) : HasRow i := by
  cases i with
  | cls => exact encodes_cls.hasRow rfl rfl
  | ret => exact encodes_ret.hasRow rfl rfl
  | jp nnn => exact (encodes_jp nnn).hasRow rfl (or_placeOperands_a _ nnn)
  | call nnn => exact (encodes_call nnn).hasRow rfl (or_placeOperands_a _ nnn)
  | seb x nn => exact (encodes_seb x nn).hasRow rfl (or_placeOperands_xb _ x nn)
  | sneb x nn => exact (encodes_sneb x nn).hasRow rfl (or_placeOperands_xb _ x nn)
  | se x y => exact (encodes_se x y).hasRow rfl (or_placeOperands_xy _ x y)
  | ldb x nn => exact (encodes_ldb x nn).hasRow rfl (or_placeOperands_xb _ x nn)
  | addb x nn => exact (encodes_addb x nn).hasRow rfl (or_placeOperands_xb _ x nn)
  | mov x y => exact (encodes_mov x y).hasRow rfl (or_placeOperands_xy _ x y)
  | or x y => exact (encodes_or x y).hasRow rfl (or_placeOperands_xy _ x y)
  | and x y => exact (encodes_and x y).hasRow rfl (or_placeOperands_xy _ x y)
  | xor x y => exact (encodes_xor x y).hasRow rfl (or_placeOperands_xy _ x y)
  | add x y => exact (encodes_add x y).hasRow rfl (or_placeOperands_xy _ x y)
  | sub x y => exact (encodes_sub x y).hasRow rfl (or_placeOperands_xy _ x y)
  | shr x y => exact (encodes_shr x y).hasRow rfl (or_placeOperands_xy _ x y)
  | subn x y => exact (encodes_subn x y).hasRow rfl (or_placeOperands_xy _ x y)
  | shl x y => exact (encodes_shl x y).hasRow rfl (or_placeOperands_xy _ x y)
  | sne x y => exact (encodes_sne x y).hasRow rfl (or_placeOperands_xy _ x y)
  | ldi nnn => exact (encodes_ldi nnn).hasRow rfl (or_placeOperands_a _ nnn)
  | jpv x nn => exact (encodes_jpv x nn).hasRow rfl (or_placeOperands_xb _ x nn)
  | rnd x nn => exact (encodes_rnd x nn).hasRow rfl (or_placeOperands_xb _ x nn)
  | drw x y n => exact (encodes_drw x y n).hasRow rfl (or_placeOperands_xyn _ x y n)
  | skp x => exact (encodes_skp x).hasRow rfl (or_placeOperands_xf _ x)
  | sknp x => exact (encodes_sknp x).hasRow rfl (or_placeOperands_xf _ x)
  | lddt x => exact (encodes_lddt x).hasRow rfl (or_placeOperands_xf _ x)
  | stdt x => exact (encodes_stdt x).hasRow rfl (or_placeOperands_xf _ x)
  | stst x => exact (encodes_stst x).hasRow rfl (or_placeOperands_xf _ x)
  | addi x => exact (encodes_addi x).hasRow rfl (or_placeOperands_xf _ x)
  | font x => exact (encodes_font x).hasRow rfl (or_placeOperands_xf _ x)
  | bcd x => exact (encodes_bcd x).hasRow rfl (or_placeOperands_xf _ x)
  | stm x => exact (encodes_stm x).hasRow rfl (or_placeOperands_xf _ x)
  | ldm x => exact (encodes_ldm x).hasRow rfl (or_placeOperands_xf _ x)

end Sys2Proof.Machine
end

section
/-! PROOFS. The decoder, the encoder and assembler lines (spec/30_encoding.md). -/

namespace Sys2Proof.Machine

/-- Settles O1: the fields of an encoded word are the operands, so the decode table reads them back. -/
theorem decodeOfEncodeIsTheInstruction : Obligations.DecodeOfEncodeIsTheInstruction := by
  intro i rest _
  exact ⟨decode_encode i, decodeBytes_encodeBytes_append i rest⟩

/-- Settles O2: each line of the decode table names the word it is given. -/
theorem encodeOfDecodedWordIsTheWord : Obligations.EncodeOfDecodedWordIsTheWord := by
  intro op i h
  exact ⟨encode_of_decodeRow (decode_eq_ok.mp h), i.wellFormed_eq_true⟩

/-- Settles O3: a word that decodes is the word of its instruction, which that instruction's row selects. -/
theorem decodeFollowsMatchAndMask : Obligations.DecodeFollowsMatchAndMask := by
  refine ⟨fun op i h => ?_, fun op e h => ?_, fun op r hr q hq => selects_unique hr hq⟩
  · obtain ⟨r, hfind, hmask, -⟩ := hasRow i
    have hselects : r.selects op = true := by
      rw [← encode_of_decodeRow (decode_eq_ok.mp h)]
      exact decide_eq_true hmask
    exact ⟨r, List.mem_of_find?_eq_some hfind, hselects, by simpa using List.find?_some hfind⟩
  · obtain ⟨hnone, he⟩ := decode_eq_error.mp h
    exact ⟨he, recognized_eq_false_iff.mpr hnone⟩

/-- Settles O4: the group decides which low bits the decode table compares. -/
theorem unrecognizedWordsAreThoseListed : Obligations.UnrecognizedWordsAreThoseListed := by
  intro op
  have hrefused : decode op = .error (.unrecognized op) ↔ decodeRow op = none := by simp [decode_eq_error]
  exact hrefused.trans decodeRow_eq_none_iff

/-- Settles O5, by running the decoder on the nine words. -/
theorem sampleWordsDecode : Obligations.SampleWordsDecode := by
  unfold Obligations.SampleWordsDecode
  decide

/-- Settles O6: the row of an instruction, with the operands in their fields, is its word. -/
theorem assemblerLineGivesTheWord : Obligations.AssemblerLineGivesTheWord := by
  intro i
  obtain ⟨r, hfind, -, hword⟩ := hasRow i
  obtain ⟨hline, hformat⟩ : i.asm.wellFormed = true ∧ formatOf i.mnemonic = some i.format := by
    simpa [Instr.wellFormed] using i.wellFormed_eq_true
  rw [AsmLine.word, if_pos hline]
  simp only [Instr.asm, hformat, hfind, ← hword]

end Sys2Proof.Machine
end

section
/-! SUPPORT. The frames of the remaining writes (R31), and all that an instruction can do at execute (R166, R180): enter the
fault of its rule, or complete inside the frame of the table of R31. -/

namespace Sys2Proof.Machine

/-! ## What a frame keeps (R31) -/

section
variable {c : MayChange} {s t : State} (h : FrameBut c s t)
include h

theorem FrameBut.reg {z : Nibble} (hz : ¬c.reg z) : t.reg z = s.reg z := by
  obtain ⟨hreg, -⟩ := h
  exact hreg z hz

theorem FrameBut.idx (hc : ¬c.idx) : t.idx = s.idx := by
  obtain ⟨-, hidx, -⟩ := h
  exact hidx hc

theorem FrameBut.dt (hc : ¬c.dt) : t.dt = s.dt := by
  obtain ⟨-, -, -, -, hdt, -⟩ := h
  exact hdt hc

theorem FrameBut.st (hc : ¬c.st) : t.st = s.st := by
  obtain ⟨-, -, -, -, -, hst, -⟩ := h
  exact hst hc

theorem FrameBut.byte {a : Nat} (ha : ¬c.mem a) : t.byte a = s.byte a := by
  obtain ⟨-, -, -, -, -, -, hmem, -⟩ := h
  exact hmem a ha

theorem FrameBut.sameFaultRecord : SameFaultRecord s t := by
  obtain ⟨-, -, -, -, -, -, -, hrecord, -⟩ := h
  exact hrecord

theorem FrameBut.sameInputs : SameInputs s t := by
  obtain ⟨-, -, -, -, -, -, -, -, hinputs⟩ := h
  exact hinputs

end

/-! ## Frames of single writes (R31) -/

theorem frameBut_setFlagThenReg {c : MayChange} {x : Nibble} (hf : c.reg regF) (hx : c.reg x) (s : State) (b : Bool)
    (r : Byte) : FrameBut c s (s.setFlagThenReg b x r) :=
  (frameBut_setReg hf s _).trans (frameBut_setReg hx _ r)

theorem frameBut_loadRegs {c : MayChange} {x : Nibble} (hc : ∀ z : Nibble, z.toNat ≤ x.toNat → c.reg z) (s : State)
    (a : Nat) : FrameBut c s (s.loadRegs a x) := by
  have hreg : ∀ z, ¬c.reg z → (s.loadRegs a x).reg z = s.reg z := by
    intro z hz
    rw [State.reg_loadRegs, if_neg (mt (hc z) hz)]
  exact ⟨hreg, by simp [SameFaultRecord, SameInputs]⟩

theorem frameBut_push {c : MayChange} (hc : c.stack) (s : State) (e : Word) : FrameBut c s (s.push e) := by
  simp [FrameBut, SameFaultRecord, SameInputs, hc]

theorem frameBut_dropTop {c : MayChange} (hc : c.stack) (s : State) : FrameBut c s s.dropTop := by
  simp [FrameBut, SameFaultRecord, SameInputs, hc]

theorem frameBut_setFb {c : MayChange} (hc : c.display) (s : State) (fb : FrameBuffer) : FrameBut c s (s.setFb fb) := by
  simp [FrameBut, SameFaultRecord, SameInputs, hc]

theorem frameBut_flush {c : MayChange} (hc : c.display) (s : State) : FrameBut c s s.flush := by
  simp [FrameBut, SameFaultRecord, SameInputs, hc]

theorem frameBut_setSt {c : MayChange} (hc : c.st) (s : State) (b : Byte) : FrameBut c s (s.setSt b) := by
  simp [FrameBut, SameFaultRecord, SameInputs, hc]

/-- A stored run changes the bytes of the run alone. -/
theorem frameBut_storeRun {c : MayChange} {a : Nat} {bs : List Byte} (hc : ∀ k, a ≤ k ∧ k < a + bs.length → c.mem k)
    (s : State) : FrameBut c s (s.storeRun a bs) := by
  have hmem : ∀ k, ¬c.mem k → (s.storeRun a bs).byte k = s.byte k := by
    intro k hk
    rw [State.byte_storeRun, if_neg (mt (hc k) hk)]
  simpa [FrameBut, SameFaultRecord, SameInputs] using hmem

/-! ## What an instruction can do -/

/-- The fault an instruction raises at execute when its condition holds (R80, R82, R131, R145, R146, R147). -/
def executeFault : Instr → CoreFault
  | .ret => .stackUnderflow
  | .call _ => .stackOverflow
  | _ => .outOfBounds 4096

/-- From `s` to `t` the instruction did what its rule says: the frame of R31, and where PC, the stack and memory come from. -/
structure Completes (i : Instr) (s t : State) : Prop where
  frame : FrameBut (table31 i s) s t
  pc : t.pc = s.pc + 2#16 ∨ t.pc = s.pc + 4#16 ∨ t.pc.toNat ≤ 0xFFF ∨ t.pc ∈ s.stack
  stack : t.stack = s.stack ∨ t.stack = s.stack.tail ∨ t.stack = (s.pc + 2#16) :: s.stack ∧ s.stackFull = false
  mem : t.mem = s.mem ∨ ∃ bs, s.base + bs.length ≤ 4096 ∧ t.mem = (s.storeRun s.base bs).mem

/-- Most instructions write something and advance PC. -/
theorem Completes.of_advance {i : Instr} {s u : State} (hframe : FrameBut (table31 i s) s u) (hpc : u.pc = s.pc)
    (hstack : u.stack = s.stack) (hmem : u.mem = s.mem) : Completes i s u.advance where
  frame := hframe.advance
  pc := .inl (by rw [State.advance_pc, hpc])
  stack := .inl hstack
  mem := .inl hmem

/-- BCD and STM store a run at I and advance PC. -/
theorem Completes.of_storeRun {i : Instr} {s : State} {bs : List Byte}
    (hmem : ∀ k, s.base ≤ k ∧ k < s.base + bs.length → (table31 i s).mem k) (hfits : s.base + bs.length ≤ 4096) :
    Completes i s (s.storeRun s.base bs).advance where
  frame := (frameBut_storeRun hmem s).advance
  pc := .inl (by rw [State.advance_pc, State.storeRun_pc])
  stack := .inl (State.storeRun_stack ..)
  mem := .inr ⟨bs, hfits, rfl⟩

/-- The skips change PC alone. -/
theorem Completes.of_skipIf {i : Instr} (c : Bool) (s : State) : ∃ t, skipIf c s = .next t ∧ Completes i s t := by
  cases c with
  | true => exact ⟨s.skip, rfl, frameBut_setPc _ s _, .inr (.inl rfl), .inl rfl, .inl rfl⟩
  | false => exact ⟨s.advance, rfl, frameBut_setPc _ s _, .inl rfl, .inl rfl, .inl rfl⟩

/-- A run from I in memory is committed; one that leaves memory is OutOfBounds(0x1000), since I itself is in memory (D23). -/
theorem guardRun_base_cases (s : State) (len : Nat) (t : State) :
    (s.base + len ≤ 4096 ∨ len = 0) ∧ guardRun s.base len s t = .next t ∨
      4096 < s.base + len ∧ len ≠ 0 ∧ guardRun s.base len s t = .next (s.enterFault (.outOfBounds 4096)) := by
  rcases guardRun_cases s s.base len t with h | ⟨hlt, hlen, -⟩
  · exact .inl h
  · exact .inr ⟨hlt, hlen, guardRun_of_lt s t s.base_lt.le hlt⟩

/-- The outcome of an instruction: its fault when its condition holds, else a completed state. -/
def ExecSpec (i : Instr) (s : State) : Prop :=
  faultsAtExecute i s ∧ exec i s = .next (s.enterFault (executeFault i)) ∨
    ¬faultsAtExecute i s ∧ ∃ t, exec i s = .next t ∧ Completes i s t

theorem execSpec_ret (s : State) : ExecSpec .ret s := by
  unfold ExecSpec faultsAtExecute
  cases h : s.stack with
  | nil => exact .inl ⟨rfl, by simp [exec, execRet, h, raise, executeFault]⟩
  | cons e rest =>
    refine .inr ⟨nofun, s.dropTop.setPc e, by simp [exec, execRet, h], ?_⟩
    exact ⟨(frameBut_dropTop trivial s).trans (frameBut_setPc _ _ e), .inr (.inr (.inr (by simp [h]))),
      .inr (.inl rfl), .inl rfl⟩

theorem toNat_zextAddr (a : Addr) : (zextAddr a).toNat = a.toNat := by
  have := a.isLt
  simp only [zextAddr, BitVec.toNat_setWidth]
  omega

/-- The target of JPV is the sum of two bytes, so it never wraps (R83). -/
theorem toNat_jpvTarget (nn a : Byte) : (jpvTarget nn a).toNat = nn.toNat + a.toNat := by
  have := nn.isLt
  have := a.isLt
  simp only [jpvTarget, zextByte, BitVec.toNat_add, BitVec.toNat_setWidth]
  omega

theorem toNat_zextAddr_le (a : Addr) : (zextAddr a).toNat ≤ 0xFFF := by
  have := a.isLt
  rw [toNat_zextAddr]
  omega

theorem execSpec_call (nnn : Addr) (s : State) : ExecSpec (.call nnn) s := by
  unfold ExecSpec faultsAtExecute
  cases h : s.stackFull with
  | true => exact .inl ⟨rfl, by simp [exec, execCall, h, raise, executeFault]⟩
  | false =>
    refine .inr ⟨nofun, (s.push (s.pc + 2#16)).setPc (zextAddr nnn), by simp [exec, execCall, h], ?_⟩
    exact ⟨(frameBut_push trivial s _).trans (frameBut_setPc _ _ _), .inr (.inr (.inl (toNat_zextAddr_le nnn))),
      .inr (.inr ⟨rfl, h⟩), .inl rfl⟩

/-- The instructions that touch a run from I: their condition is that of the guard. -/
theorem execSpec_guardRun {i : Instr} {s t : State} {len : Nat} (hexec : exec i s = guardRun s.base len s t)
    (hfault : executeFault i = .outOfBounds 4096) (hcond : faultsAtExecute i s ↔ 4096 < s.base + len ∧ len ≠ 0)
    (ht : s.base + len ≤ 4096 ∨ len = 0 → Completes i s t) : ExecSpec i s := by
  unfold ExecSpec
  rw [hcond, hfault, hexec]
  rcases guardRun_base_cases s len t with ⟨hle, e⟩ | ⟨hlt, hlen, e⟩
  · exact .inr ⟨by omega, t, e, ht hle⟩
  · exact .inl ⟨⟨hlt, hlen⟩, e⟩

theorem nibble_ne_zero_iff {n : Nibble} : n ≠ 0#4 ↔ n.toNat ≠ 0 := by
  rw [Ne, ← BitVec.toNat_inj]; rfl

theorem execSpec_drw (x y n : Nibble) (s : State) : ExecSpec (.drw x y n) s := by
  refine execSpec_guardRun rfl rfl ?_ fun _ => ?_
  · rw [faultsAtExecute, nibble_ne_zero_iff, and_comm]
  · refine Completes.of_advance ?_ rfl rfl rfl
    exact ((frameBut_setFb trivial s _).trans (frameBut_setReg rfl _ _)).trans (frameBut_flush trivial _)

theorem execSpec_bcd (x : Nibble) (s : State) : ExecSpec (.bcd x) s := by
  refine execSpec_guardRun rfl rfl (by simp [faultsAtExecute]) fun h => ?_
  exact Completes.of_storeRun (fun k hk => hk) (by simpa using h)

theorem execSpec_stm (x : Nibble) (s : State) : ExecSpec (.stm x) s := by
  refine execSpec_guardRun rfl rfl (by simp [faultsAtExecute]) fun h => ?_
  exact Completes.of_storeRun (fun k hk => by simpa [table31, inRun] using hk) (by simpa using h)

theorem execSpec_ldm (x : Nibble) (s : State) : ExecSpec (.ldm x) s := by
  refine execSpec_guardRun rfl rfl (by simp [faultsAtExecute]) fun _ => ?_
  exact Completes.of_advance (frameBut_loadRegs (fun z hz => hz) s _) (State.loadRegs_pc ..)
    (State.loadRegs_stack ..) (State.loadRegs_mem ..)

/-- R166, R180: every instruction, from every state, faults as its rule says or completes. -/
theorem execSpec (i : Instr) (s : State) : ExecSpec i s := by
  cases i with
  | ret => exact execSpec_ret s
  | call nnn => exact execSpec_call nnn s
  | drw x y n => exact execSpec_drw x y n s
  | bcd x => exact execSpec_bcd x s
  | stm x => exact execSpec_stm x s
  | ldm x => exact execSpec_ldm x s
  | cls =>
    exact .inr ⟨id, _, rfl, .of_advance ((frameBut_setFb trivial s _).trans (frameBut_flush trivial _)) rfl rfl rfl⟩
  | jp nnn =>
    exact .inr ⟨id, _, rfl, frameBut_setPc _ s _, .inr (.inr (.inl (toNat_zextAddr_le nnn))), .inl rfl, .inl rfl⟩
  | jpv x nn =>
    have hpc : (jpvTarget nn (s.reg x)).toNat ≤ 0xFFF := by
      have := nn.isLt
      have := (s.reg x).isLt
      rw [toNat_jpvTarget]
      omega
    exact .inr ⟨id, _, rfl, frameBut_setPc _ s _, .inr (.inr (.inl hpc)), .inl rfl, .inl rfl⟩
  | seb | sneb | se | sne | skp | sknp => exact .inr ⟨id, Completes.of_skipIf _ s⟩
  | ldb | addb | mov | or | and | xor | rnd | lddt =>
    exact .inr ⟨id, _, rfl, .of_advance (frameBut_setReg rfl s _) rfl rfl rfl⟩
  | add | sub | shr | subn | shl =>
    exact .inr ⟨id, _, rfl, .of_advance (frameBut_setFlagThenReg (Or.inr rfl) (Or.inl rfl) s _ _) rfl rfl rfl⟩
  | ldi | addi | font => exact .inr ⟨id, _, rfl, .of_advance (frameBut_setIdx trivial s _) rfl rfl rfl⟩
  | stdt => exact .inr ⟨id, _, rfl, .of_advance (frameBut_setDt trivial s _) rfl rfl rfl⟩
  | stst => exact .inr ⟨id, _, rfl, .of_advance (frameBut_setSt trivial s _) rfl rfl rfl⟩

theorem exec_of_faults {i : Instr} {s : State} (h : faultsAtExecute i s) :
    exec i s = .next (s.enterFault (executeFault i)) := by
  rcases execSpec i s with ⟨-, hexec⟩ | ⟨hcond, -⟩
  · exact hexec
  · exact absurd h hcond

theorem completes_of_exec {i : Instr} {s t : State} (hcond : ¬faultsAtExecute i s) (h : exec i s = .next t) :
    Completes i s t := by
  rcases execSpec i s with ⟨hfault, -⟩ | ⟨-, u, hexec, hu⟩
  · exact absurd hfault hcond
  · rw [hexec] at h
    cases h
    exact hu

/-- Only STDT writes DT (R31, R141). -/
theorem Completes.dt {i : Instr} {s t : State} (hexec : exec i s = .next t) (h : Completes i s t) :
    t.dt = match i with | .stdt x => s.reg x | _ => s.dt := by
  cases i with
  | stdt x => rw [exec_stdt] at hexec; cases hexec; rfl
  | _ => exact h.frame.dt id

/-- Only STST writes ST (R31, R142). -/
theorem Completes.st {i : Instr} {s t : State} (hexec : exec i s = .next t) (h : Completes i s t) :
    t.st = match i with | .stst x => s.reg x | _ => s.st := by
  cases i with
  | stst x => cases hexec; rfl
  | _ => exact h.frame.st id

end Sys2Proof.Machine
end

section
/-! SUPPORT. All that a tick can do (R27, R165, R166): be ignored, enter one of the four faults, or complete an instruction that
was fetched inside memory; and what every event sequence inherits from one event. -/

namespace Sys2Proof.Machine

/-- The faults a tick from `s` can raise, with the values they report (R160, D23). -/
def RaisedFrom (s : State) : CoreFault → Prop
  | .outOfBounds a => a = max s.pc.toNat 4096 ∨ a = 4096
  | .stackUnderflow => True
  | .unrecognizedOpcode op => recognized op = false
  | .stackOverflow => s.params.stackDepth ≠ none

/-- Fetch and decode fault beyond memory and on an unrecognized word; an instruction is fetched inside memory (R45, R163). -/
theorem fetchDecode_cases (s : State) :
    0xFFE < s.pc.toNat ∧ fetchDecode s = .error (.outOfBounds (max s.pc.toNat 4096)) ∨
      s.pc.toNat ≤ 0xFFE ∧ ∃ op, op = wordOfBytes (s.byte s.pc.toNat) (s.byte (s.pc.toNat + 1)) ∧
        (recognized op = false ∧ fetchDecode s = .error (.unrecognizedOpcode op) ∨
          ∃ i, decode op = .ok i ∧ fetchDecode s = .ok i) := by
  unfold fetchDecode
  rcases fetch_cases s with ⟨hpc, hfetch⟩ | ⟨hpc, hfetch⟩
  · refine .inr ⟨hpc, _, rfl, ?_⟩
    cases hdecode : decode (wordOfBytes (s.byte s.pc.toNat) (s.byte (s.pc.toNat + 1))) with
    | ok i => exact .inr ⟨i, rfl, by simp only [hfetch, hdecode]⟩
    | error e =>
      have hnone := (decode_eq_error.mp hdecode).1
      exact .inl ⟨recognized_eq_false_iff.mpr hnone, by simp only [hfetch, hdecode]⟩
  · exact .inl ⟨hpc, by simp only [hfetch]⟩

theorem fetchDecode_error {s : State} {f : CoreFault} (h : fetchDecode s = .error f) : RaisedFrom s f := by
  rcases fetchDecode_cases s with ⟨-, e⟩ | ⟨-, op, -, ⟨hop, e⟩ | ⟨i, -, e⟩⟩ <;> rw [e] at h <;> cases h
  · exact .inl rfl
  · exact hop

theorem fetchDecode_ok {s : State} {i : Instr} (h : fetchDecode s = .ok i) : s.pc.toNat ≤ 0xFFE := by
  rcases fetchDecode_cases s with ⟨-, e⟩ | ⟨hpc, -⟩
  · rw [e] at h; cases h
  · exact hpc

theorem raisedFrom_executeFault {i : Instr} {s : State} (h : faultsAtExecute i s) : RaisedFrom s (executeFault i) := by
  cases i with
  | ret => trivial
  | call nnn =>
    obtain ⟨d, hd, -⟩ := s.stackFull_iff.mp h
    simp [executeFault, RaisedFrom, hd]
  | _ => exact .inr rfl

/-- What a tick from `s` to `t` did. -/
inductive TickTo (s t : State) : Prop
  | ignored (hgated : s.run = false ∨ s.halted = true) (h : t = s)
  | faulted (f : CoreFault) (hrunning : s.Running) (hf : RaisedFrom s f) (h : t = s.enterFault f)
  | completed (i : Instr) (u : State) (hrunning : s.Running) (hfetch : fetchDecode s = .ok i) (hexec : exec i s = .next u)
      (hu : Completes i s u) (h : t = finishTick i u)

/-- R165: a tick always answers a next state, in one of the three ways. -/
theorem step_next (s : State) : ∃ t, step s = .next t ∧ TickTo s t := by
  rcases step_cases s with ⟨hg, e⟩ | ⟨hg, f, hf, e⟩ | ⟨hg, i, hi, e⟩
  · refine ⟨s, e, .ignored ?_ rfl⟩
    simpa [State.gated] using hg
  · exact ⟨_, e, .faulted f (s.gated_eq_false.mp hg) (fetchDecode_error hf) rfl⟩
  · have hrunning : s.Running := s.gated_eq_false.mp hg
    rcases execSpec i s with ⟨hcond, hexec⟩ | ⟨-, u, hexec, hu⟩
    · refine ⟨s.enterFault (executeFault i), ?_, .faulted _ hrunning (raisedFrom_executeFault hcond) rfl⟩
      rw [e, hexec, endTick_next, finishTick_of_halted (State.enterFault_halted s _)]
    · exact ⟨finishTick i u, by rw [e, hexec, endTick_next], .completed i u hrunning hi hexec hu rfl⟩

theorem tickTo_of_step {s t : State} (h : step s = .next t) : TickTo s t := by
  obtain ⟨u, hu, htick⟩ := step_next s
  obtain rfl : u = t := by simpa [hu] using h
  exact htick

/-- A tick changes neither the parameters nor `run` (R6, R25). -/
theorem TickTo.params_run {s t : State} (h : TickTo s t) : t.params = s.params ∧ t.run = s.run := by
  cases h with
  | ignored _ h => rw [h]; exact ⟨rfl, rfl⟩
  | faulted f _ _ h => rw [h]; exact ⟨rfl, rfl⟩
  | completed i u _ _ _ hu h =>
    obtain ⟨-, -, hrun, -, hparams⟩ := hu.frame.sameInputs
    rw [h, finishTick_params, finishTick_run]
    exact ⟨hparams, hrun⟩

/-! ## The tick, case by case -/

theorem step_of_gated {s : State} (h : s.run = false ∨ s.halted = true) : step s = .next s := by
  have hgated : s.gated = true := by simpa [State.gated] using h
  simp [step, hgated]

theorem step_of_error {s : State} {f : CoreFault} (hs : s.Running) (h : fetchDecode s = .error f) :
    step s = .next (s.enterFault f) := by
  simp [step, s.gated_eq_false.mpr hs, h, raise]

theorem step_of_ok {s : State} {i : Instr} (hs : s.Running) (h : fetchDecode s = .ok i) :
    step s = endTick i (exec i s) := by
  simp [step, s.gated_eq_false.mpr hs, h]

/-- The instruction whose two bytes are at PC is the one the tick fetches (R45, R60). -/
theorem fetchDecode_of_decode {s : State} {i : Instr} (hpc : s.pc.toNat ≤ 0xFFE)
    (h : decode (wordOfBytes (s.byte s.pc.toNat) (s.byte (s.pc.toNat + 1))) = .ok i) : fetchDecode s = .ok i := by
  rcases fetchDecode_cases s with ⟨hlt, -⟩ | ⟨-, op, rfl, ⟨hop, -⟩ | ⟨j, hj, hf⟩⟩
  · omega
  · rw [recognized_eq_false_iff, decode_eq_ok.mp h] at hop
    cases hop
  · rw [h] at hj
    cases hj
    exact hf

/-! ## The end of the tick -/

/-- A completed tick ends with ST one lower, floor 0 (R171). -/
theorem toNat_finishTick_st (i : Instr) {t : State} (h : t.halted = false) :
    (finishTick i t).st.toNat = t.st.toNat - 1 := by
  obtain ⟨-, hst⟩ := finishTick_timers (i := i) h
  rw [hst, toNat_countDown]

/-- The end of the tick frees an input only when the instruction sampled it (R21, R103). -/
theorem finishTick_keys {i : Instr} {t : State} (h : samplesKeys i = false) : (finishTick i t).keys = t.keys := by
  unfold finishTick State.refreshInputs
  rw [h]
  cases t.halted <;> cases samplesRnd i <;> rfl

theorem finishTick_rnd {i : Instr} {t : State} (h : samplesRnd i = false) : (finishTick i t).rnd = t.rnd := by
  unfold finishTick State.refreshInputs
  rw [h]
  cases t.halted <;> cases samplesKeys i <;> rfl

end Sys2Proof.Machine
end

section
/-! PROOFS. The tick and its faults (spec/10_state.md R27, spec/60_exceptions.md), and the frames of all instructions (R31). -/

namespace Sys2Proof.Machine

/-- Settles O11: a tick is ignored, faults or completes, and each is a next state. -/
theorem everyTickHasANextState : Obligations.EveryTickHasANextState := by
  intro s
  obtain ⟨t, hstep, htick⟩ := step_next s
  exact ⟨t, hstep, htick.params_run⟩

/-- Settles O12: only a fault entry turns the latch on, and it writes one of the four codes. -/
theorem faultingTickChangesOnlyTheFaultRecord : Obligations.FaultingTickChangesOnlyTheFaultRecord := by
  intro s t hs hstep ht
  cases tickTo_of_step hstep with
  | ignored _ h => subst h; simp [hs] at ht
  | faulted f _ _ h =>
    have hcode : 1 ≤ f.code.toNat ∧ f.code.toNat ≤ 4 := by cases f <;> simp [CoreFault.code]
    subst h
    exact ⟨rfl, hcode⟩
  | completed i u _ _ _ hu h =>
    obtain ⟨hhalted, -⟩ := hu.frame.sameFaultRecord
    subst h
    simp [hhalted, hs] at ht

/-- Settles O13: an instruction completes, and is not halted, exactly when its condition fails. -/
theorem instructionsFaultExactlyWhenTheirRuleSays : Obligations.InstructionsFaultExactlyWhenTheirRuleSays := by
  intro i s hs
  rcases execSpec i s with ⟨hcond, hexec⟩ | ⟨hcond, t, hexec, ht⟩
  · exact ⟨_, hexec, iff_of_true rfl hcond⟩
  · obtain ⟨hhalted, -⟩ := ht.frame.sameFaultRecord
    exact ⟨t, hexec, iff_of_false (by simp [hhalted, hs]) hcond⟩

/-- Settles O14: the fault entry of each of the six instructions, written out. -/
theorem faultsAtExecuteRecordTheirCode : Obligations.FaultsAtExecuteRecordTheirCode :=
  ⟨fun _ h => exec_of_faults h, fun _ _ h => exec_of_faults h, fun _ _ _ _ h => exec_of_faults h,
    fun _ _ h => exec_of_faults h, fun _ _ h => exec_of_faults h, fun _ _ h => exec_of_faults h⟩

/-- Settles O24: an instruction completes inside its line of the table of R31, or enters its fault. -/
theorem instructionsChangeOnlyWhatTable31Lists : Obligations.InstructionsChangeOnlyWhatTable31Lists := by
  intro i s t h
  refine ⟨fun hcond => (completes_of_exec hcond h).frame, fun hcond => ?_⟩
  rw [exec_of_faults hcond] at h
  cases h
  rfl

/-- Settles O7: the bytes at PC are what the tick fetches, and the end of the tick keeps all but timers and sampled inputs. -/
theorem stepRunsTheDecodedInstruction : Obligations.StepRunsTheDecodedInstruction := by
  intro s i hrunning hpc _ hbytes
  obtain ⟨hi, lo, hpair, hword⟩ := decodeBytes_eq_ok_iff.mp hbytes
  obtain ⟨rfl, rfl⟩ : hi = s.byte s.pc.toNat ∧ lo = s.byte (s.pc.toNat + 1) := by simpa [eq_comm] using hpair
  have hstep : step s = endTick i (exec i s) := step_of_ok hrunning (fetchDecode_of_decode hpc hword)
  refine ⟨hstep, fun t ht => ⟨finishTick i t, by rw [hstep, ht, endTick_next], finishTick_of_halted, fun h => ?_,
    finishTick_keys, finishTick_rnd, ?_⟩⟩
  · exact ⟨toNat_finishTick_dt i h, toNat_finishTick_st i h⟩
  · simp

/-- Settles O8: the fetch faults, and the reported address is the larger of PC and 0x1000. -/
theorem fetchBeyondMemoryFaults : Obligations.FetchBeyondMemoryFaults := by
  intro s hrunning hpc
  have hinfo : BitVec.ofNat 16 (max s.pc.toNat 4096) = if s.pc.toNat = 0xFFF then 0x1000#16 else s.pc := by
    split
    · rename_i h; rw [h]; rfl
    · rw [max_eq_left (by omega), BitVec.ofNat_toNat, BitVec.setWidth_eq]
  rcases fetchDecode_cases s with ⟨-, hf⟩ | ⟨hle, -⟩
  · rw [step_of_error hrunning hf, ← hinfo]; rfl
  · omega

/-- Settles O9: a word no row selects does not decode. -/
theorem unrecognizedWordFaults : Obligations.UnrecognizedWordFaults := by
  intro s hrunning hpc hword
  have hf : fetchDecode s = .error (.unrecognizedOpcode (wordOfBytes (s.byte s.pc.toNat) (s.byte (s.pc.toNat + 1)))) := by
    rcases fetchDecode_cases s with ⟨hlt, -⟩ | ⟨-, op, rfl, ⟨-, hf⟩ | ⟨i, hi, -⟩⟩
    · omega
    · exact hf
    · rw [recognized_eq_false_iff, decode_eq_ok.mp hi] at hword
      cases hword
  exact step_of_error hrunning hf

/-- Settles O10: such a tick is ignored. -/
theorem ignoredTickChangesNothing : Obligations.IgnoredTickChangesNothing :=
  fun _ h => step_of_gated h

/-- Settles O53: only STDT and STST write a timer, and the countdown comes after them. -/
theorem completedTickLowersTheTimers : Obligations.CompletedTickLowersTheTimers := by
  intro s t i hrunning hfetch hstep ht
  rw [step_of_ok hrunning hfetch] at hstep
  rcases execSpec i s with ⟨-, hexec⟩ | ⟨-, u, hexec, hu⟩ <;> rw [hexec, endTick_next] at hstep <;> cases hstep
  · simp at ht
  · rw [finishTick_halted] at ht
    rw [toNat_finishTick_dt i ht, toNat_finishTick_st i ht, Completes.dt hexec hu, Completes.st hexec hu]
    cases i <;> exact ⟨rfl, rfl⟩

end Sys2Proof.Machine
end

section
/-! SUPPORT. Every invariant of the machine is kept by every tick and by every event of the host, so by every run (R10, R28,
R40). Each tick lemma is about the three ways a tick can go (`TickTo`). -/

namespace Sys2Proof.Machine

/-! ## The memory form (R40) -/

theorem State.memOk_of_eq {s t : State} (h : s.MemOk) (hmem : t.mem = s.mem) (hparams : t.params = s.params) :
    t.MemOk := by
  unfold State.MemOk
  rw [hmem, hparams]
  exact h

theorem TickTo.memOk {s t : State} (h : TickTo s t) (hs : s.MemOk) : t.MemOk := by
  cases h with
  | ignored _ h => exact h ▸ hs
  | faulted f _ _ h => exact h ▸ hs
  | completed i u _ _ _ hu h =>
    obtain ⟨-, -, -, -, hparams⟩ := hu.frame.sameInputs
    have hok : u.MemOk := by
      rcases hu.mem with hmem | ⟨bs, hfits, hmem⟩
      · exact State.memOk_of_eq hs hmem hparams
      · refine State.memOk_of_eq (s := s.storeRun s.base bs) ?_ hmem (by rw [hparams, State.storeRun_params])
        unfold State.MemOk
        rw [State.storeRun_params]
        exact State.wf_storeRun hs hfits
    exact State.memOk_of_eq hok (by rw [h, finishTick_mem]) (by rw [h, finishTick_params])

/-! ## The bound on PC and the stack entries (R28) -/

theorem toNat_add_le {p k : Word} {n : Nat} (hp : p.toNat ≤ 0xFFE) (hk : 0xFFE + k.toNat ≤ n) : (p + k).toNat ≤ n := by
  rw [BitVec.toNat_add]
  have := Nat.mod_le (p.toNat + k.toNat) (2 ^ 16)
  omega

theorem Completes.pcOk {i : Instr} {s u : State} (hu : Completes i s u) (hpc : s.pc.toNat ≤ 0xFFE) (hs : s.PcOk) :
    u.PcOk := by
  obtain ⟨-, hentries⟩ := hs
  refine ⟨?_, fun e he => ?_⟩
  · rcases hu.pc with h | h | h | h
    · rw [h]; exact toNat_add_le hpc (by decide)
    · rw [h]; exact toNat_add_le hpc (by decide)
    · omega
    · have := hentries _ h
      omega
  · rcases hu.stack with h | h | ⟨h, -⟩ <;> rw [h] at he
    · exact hentries e he
    · exact hentries e (List.mem_of_mem_tail he)
    · rcases List.mem_cons.mp he with rfl | he
      · exact toNat_add_le hpc (by decide)
      · exact hentries e he

theorem TickTo.pcOk {s t : State} (h : TickTo s t) (hs : s.PcOk) : t.PcOk := by
  cases h with
  | ignored _ h => exact h ▸ hs
  | faulted f _ _ h => exact h ▸ hs
  | completed i u _ hfetch _ hu h =>
    have hok := hu.pcOk (fetchDecode_ok hfetch) hs
    subst h
    simpa [State.PcOk] using hok

/-! ## The bound on the stack (R17) -/

theorem Completes.stackOk {i : Instr} {s u : State} (hu : Completes i s u) (hs : s.StackOk) : u.StackOk := by
  obtain ⟨-, -, -, -, hparams⟩ := hu.frame.sameInputs
  intro d hd
  rw [hparams] at hd
  have hle := hs d hd
  rcases hu.stack with h | h | ⟨h, hfull⟩ <;> rw [h]
  · exact hle
  · rw [List.length_tail]; omega
  · have hroom : ¬d ≤ s.stack.length := fun h => by
      simp [s.stackFull_iff.mpr ⟨d, hd, h⟩] at hfull
    rw [List.length_cons]
    omega

theorem TickTo.stackOk {s t : State} (h : TickTo s t) (hs : s.StackOk) : t.StackOk := by
  cases h with
  | ignored _ h => exact h ▸ hs
  | faulted f _ _ h => exact h ▸ hs
  | completed i u _ _ _ hu h =>
    have hok := hu.stackOk hs
    subst h
    simpa [State.StackOk] using hok

/-! ## The fault record (R20, R160) -/

/-- The record of a raised fault is one of the rows of R160; PC bounds the address the fetch reports. -/
theorem RaisedFrom.recordOk {s : State} {f : CoreFault} (hf : RaisedFrom s f) (hpc : s.pc.toNat ≤ 0x1002) :
    (s.enterFault f).RecordOk := by
  refine ⟨nofun, fun _ => ?_⟩
  cases f with
  | outOfBounds a =>
    have ha : 0x1000 ≤ a ∧ a ≤ 0x1002 := by rcases hf with rfl | rfl <;> omega
    have hinfo : (BitVec.ofNat 16 a).toNat = a := by rw [BitVec.toNat_ofNat]; omega
    exact .inl ⟨rfl, by rw [State.enterFault_faultInfo, CoreFault.info, hinfo]; exact ha⟩
  | stackUnderflow => exact .inr (.inl ⟨rfl, rfl⟩)
  | unrecognizedOpcode op => exact .inr (.inr (.inl ⟨rfl, hf⟩))
  | stackOverflow => exact .inr (.inr (.inr ⟨rfl, rfl, hf⟩))

theorem State.recordOk_of_eq {s t : State} (h : s.RecordOk) (hrecord : SameFaultRecord s t)
    (hparams : t.params = s.params) : t.RecordOk := by
  obtain ⟨hhalted, hcode, hinfo⟩ := hrecord
  unfold State.RecordOk
  rw [hhalted, hcode, hinfo, hparams]
  exact h

theorem TickTo.recordOk {s t : State} (h : TickTo s t) (hpc : s.PcOk) (hs : s.RecordOk) : t.RecordOk := by
  cases h with
  | ignored _ h => exact h ▸ hs
  | faulted f _ hf h =>
    obtain ⟨hbound, -⟩ := hpc
    exact h ▸ hf.recordOk hbound
  | completed i u _ _ _ hu h =>
    obtain ⟨-, -, -, -, hparams⟩ := hu.frame.sameInputs
    have hok : u.RecordOk := State.recordOk_of_eq hs hu.frame.sameFaultRecord hparams
    subst h
    exact State.recordOk_of_eq hok (by simp [SameFaultRecord]) (finishTick_params i u)

/-! ## Events of the host (R25) -/

theorem TickTo.inv {s t : State} (h : TickTo s t) (hs : s.Inv) : t.Inv := by
  obtain ⟨hmem, hpc, hstack, hrecord⟩ := hs
  exact ⟨h.memOk hmem, h.pcOk hpc, h.stackOk hstack, h.recordOk hpc hrecord⟩

theorem resetWith_inv (p : Params) (k : Word) (b : Byte) (r : Bool) : (State.resetWith p k b r).Inv := by
  have hpc : (0x200#16 : Word).toNat ≤ 0x1002 := by decide
  exact ⟨Memory.wf_nil, ⟨hpc, nofun⟩, fun _ _ => Nat.zero_le _, ⟨fun _ => ⟨rfl, rfl⟩, nofun⟩⟩

/-- Loading a ROM stores inside memory or does nothing (R195). -/
theorem State.loadRom_inv {s : State} (bytes : List Byte) (hs : s.Inv) : (s.loadRom bytes).1.Inv := by
  rcases s.loadRom_cases bytes with ⟨hle, h⟩ | ⟨-, h⟩ <;> rw [h]
  · obtain ⟨hmem, hpc, hstack, hrecord⟩ := hs
    have hfits : Config.progBase + bytes.length ≤ Config.memSize := by
      unfold Config.progBase Config.memSize Config.maxRom at *
      omega
    refine ⟨?_, by simpa [State.PcOk] using hpc, by simpa [State.StackOk] using hstack,
      by simpa [State.RecordOk] using hrecord⟩
    simpa [State.MemOk] using State.wf_storeRun hmem hfits
  · exact hs

/-- Every event has a next state and keeps the invariants (R25, R26). -/
theorem applyEvent_inv (e : HostEvent) {s : State} (hs : s.Inv) : ∃ t, applyEvent e s = .next t ∧ t.Inv := by
  cases e with
  | tick =>
    obtain ⟨t, hstep, htick⟩ := step_next s
    exact ⟨t, hstep, htick.inv hs⟩
  | reset => exact ⟨_, rfl, resetWith_inv s.params s.keys s.rnd s.run⟩
  | loadRom bytes => exact ⟨_, rfl, State.loadRom_inv bytes hs⟩
  | start | stop | keys | rnd => exact ⟨_, rfl, hs⟩

theorem applyEvents_cons_of_next {e : HostEvent} {es : List HostEvent} {s t : State} (h : applyEvent e s = .next t) :
    applyEvents (e :: es) s = applyEvents es t := by
  simp [applyEvents, h]

/-! ## The halted state (R167) -/

/-- What a halted machine keeps until it is reset: everything but memory, the inputs and the sample counter. -/
def StaysHalted (s t : State) : Prop :=
  SameFaultRecord s t ∧ t.pc = s.pc ∧ t.v = s.v ∧ t.idx = s.idx ∧ t.stack = s.stack ∧ t.fb = s.fb ∧ t.dt = s.dt ∧
    t.st = s.st ∧ t.flushes = s.flushes

theorem StaysHalted.refl (s : State) : StaysHalted s s := ⟨⟨rfl, rfl, rfl⟩, rfl, rfl, rfl, rfl, rfl, rfl, rfl, rfl⟩

theorem StaysHalted.trans {s t u : State} (hst : StaysHalted s t) (htu : StaysHalted t u) : StaysHalted s u := by
  obtain ⟨⟨halted, code, info⟩, pc, v, idx, stack, fb, dt, st, flushes⟩ := hst
  obtain ⟨⟨halted', code', info'⟩, pc', v', idx', stack', fb', dt', st', flushes'⟩ := htu
  exact ⟨⟨halted'.trans halted, code'.trans code, info'.trans info⟩, pc'.trans pc, v'.trans v, idx'.trans idx,
    stack'.trans stack, fb'.trans fb, dt'.trans dt, st'.trans st, flushes'.trans flushes⟩

theorem State.loadRom_staysHalted (s : State) (bytes : List Byte) : StaysHalted s (s.loadRom bytes).1 := by
  rcases s.loadRom_cases bytes with ⟨-, h⟩ | ⟨-, h⟩ <;> rw [h]
  · simp [StaysHalted, SameFaultRecord]
  · exact .refl s

/-- No event but reset touches a halted machine beyond memory and the inputs. -/
theorem applyEvent_staysHalted {e : HostEvent} {s : State} (hs : s.halted = true) (he : e ≠ .reset) :
    ∃ t, applyEvent e s = .next t ∧ StaysHalted s t := by
  cases e with
  | tick => exact ⟨s, step_of_gated (.inr hs), .refl s⟩
  | reset => exact absurd rfl he
  | loadRom bytes => exact ⟨_, rfl, s.loadRom_staysHalted bytes⟩
  | start | stop | keys | rnd => exact ⟨_, rfl, .refl s⟩

end Sys2Proof.Machine
end

section
/-! PROOFS. The invariants, over a tick and over runs with the host (spec/10_state.md, spec/20_memory.md,
spec/60_exceptions.md). -/

namespace Sys2Proof.Machine

/-- Settles O15, by induction on the events: each leaves the machine halted. -/
theorem onlyResetLeavesTheHaltedState : Obligations.OnlyResetLeavesTheHaltedState := by
  intro es
  induction es with
  | nil => exact fun s _ _ => ⟨s, rfl, StaysHalted.refl s⟩
  | cons e es ih =>
    intro s hs hreset
    obtain ⟨hne, hreset⟩ := List.ne_and_not_mem_of_not_mem_cons hreset
    obtain ⟨t, hevent, ht⟩ := applyEvent_staysHalted hs hne.symm
    obtain ⟨⟨hhalted, -⟩, -⟩ := id ht
    obtain ⟨u, hrun, hu⟩ := ih t (hhalted.trans hs) hreset
    exact ⟨u, (applyEvents_cons_of_next hevent).trans hrun, ht.trans hu⟩

/-- Settles O16: a tick stores nothing, or a run that its guard found inside memory. -/
theorem everyTickKeepsMemoryCanonical : Obligations.EveryTickKeepsMemoryCanonical :=
  fun _ _ hs hstep => (tickTo_of_step hstep).memOk hs

/-- Settles O17: an instruction is fetched at PC at most 0xFFE, so advancing stays at most 0x1002. -/
theorem everyTickKeepsPcBound : Obligations.EveryTickKeepsPcBound :=
  fun _ _ hs hstep => (tickTo_of_step hstep).pcOk hs

/-- Settles O18: CALL pushes only when the stack is not full. -/
theorem everyTickKeepsStackBound : Obligations.EveryTickKeepsStackBound :=
  fun _ _ hs hstep => (tickTo_of_step hstep).stackOk hs

/-- Settles O19: only a fault entry writes the record, with a row of R160. -/
theorem everyTickKeepsFaultRecordLegal : Obligations.EveryTickKeepsFaultRecordLegal :=
  fun _ _ hpc hs hstep => (tickTo_of_step hstep).recordOk hpc hs

/-- Settles O20, by induction on the events: each keeps the invariants. -/
theorem everyEventSequenceKeepsTheInvariants : Obligations.EveryEventSequenceKeepsTheInvariants := by
  intro es
  induction es with
  | nil => exact fun s hs => ⟨s, rfl, hs⟩
  | cons e es ih =>
    intro s hs
    obtain ⟨t, hevent, ht⟩ := applyEvent_inv e hs
    obtain ⟨u, hrun, hu⟩ := ih t ht
    exact ⟨u, (applyEvents_cons_of_next hevent).trans hrun, hu⟩

/-- Settles O21: memory, stack and record are empty and PC is 0x200. -/
theorem resetMeetsTheInvariants : Obligations.ResetMeetsTheInvariants :=
  ⟨resetWith_inv _ _ _ _, resetWith_inv⟩

end Sys2Proof.Machine
end

section
/-! SUPPORT. Runs with the host in them (R26): a finished machine, an ignored tick, a call and its return, and the state that
reset and load_rom leave. -/

namespace Sys2Proof.Machine

theorem applyEvents_append {es fs : List HostEvent} {s t : State} (h : applyEvents es s = .next t) :
    applyEvents (es ++ fs) s = applyEvents fs t := by
  induction es generalizing s with
  | nil => cases h; rfl
  | cons e es ih =>
    unfold applyEvents at h
    split at h
    case h_1 u hu => rw [List.cons_append, applyEvents_cons_of_next hu, ih h]
    all_goals cases h

/-- While a machine is stopped or halted, ticks change nothing (R167, R176). -/
theorem applyEvents_ticks_of_gated (n : Nat) {s : State} (h : s.run = false ∨ s.halted = true) :
    applyEvents (List.replicate n .tick) s = .next s := by
  induction n with
  | zero => rfl
  | succ n ih =>
    have hstep : applyEvent .tick s = .next s := step_of_gated h
    rw [List.replicate_succ, applyEvents_cons_of_next hstep, ih]

/-! ## The self-jump (R203) -/

theorem frameBut_tickTimers {c : MayChange} (hdt : c.dt) (hst : c.st) (s : State) : FrameBut c s s.tickTimers := by
  simp [FrameBut, SameFaultRecord, SameInputs, hdt, hst]

theorem exec_jp (nnn : Addr) (s : State) : exec (.jp nnn) s = .next (s.setPc (zextAddr nnn)) := rfl

/-- A tick of a finished machine assigns PC to itself, so only the timers count down. -/
theorem step_of_finished {s : State} (hrun : s.run = true) (h : s.Finished) : step s = .next s.tickTimers := by
  obtain ⟨hhalted, nnn, hfetch, hpc⟩ := h
  have hself : s.setPc (zextAddr nnn) = s := by rw [hpc]; rfl
  rw [step_of_ok ⟨hrun, hhalted⟩ hfetch, exec_jp, hself, endTick_next, finishTick_of_running hhalted]
  rfl

/-- The fetch reads PC and memory alone, so the countdown leaves a finished machine finished. -/
theorem State.Finished.tickTimers {s : State} (h : s.Finished) : s.tickTimers.Finished := h

/-! ## Call and return (R80, R82) -/

theorem exec_call_of_room {nnn : Addr} {s : State} (h : ∀ d, s.params.stackDepth = some d → s.stack.length < d) :
    exec (.call nnn) s = .next ((s.push (s.pc + 2#16)).setPc (zextAddr nnn)) := by
  have hroom : ¬s.stackFull = true := by
    rw [State.stackFull_iff]
    rintro ⟨d, hd, hle⟩
    have := h d hd
    omega
  simp [exec, execCall, hroom]

theorem exec_ret_of_cons {e : Word} {rest : List Word} {s : State} (h : s.stack = e :: rest) :
    exec .ret s = .next (s.dropTop.setPc e) := by
  simp [exec, execRet, h]

/-- A completed tick of an instruction that samples no input. -/
theorem step_of_completed {i : Instr} {s t : State} (hs : s.Running) (hfetch : fetchDecode s = .ok i)
    (hexec : exec i s = .next t) (ht : t.halted = false) (hkeys : samplesKeys i = false) (hrnd : samplesRnd i = false) :
    step s = .next t.tickTimers := by
  rw [step_of_ok hs hfetch, hexec, endTick_next, finishTick_of_running ht, State.refreshInputs, hkeys, hrnd]
  rfl

/-- The state after a tick that calls `nnn`: the address of the next instruction is on the stack (C2). -/
def State.called (s : State) (nnn : Addr) : State := ((s.push (s.pc + 2#16)).setPc (zextAddr nnn)).tickTimers

theorem State.called_byte (s : State) (nnn : Addr) (a : Nat) : (s.called nnn).byte a = s.byte a := rfl

/-! ## Inputs (R21, R31) -/

/-- The state with other levels on the two inputs that instructions sample. -/
def State.withInputs (s : State) (k : Word) (b : Byte) : State := { s with keys := k, rnd := b }

theorem State.readRun_withInputs (s : State) (k : Word) (b : Byte) (a len : Nat) :
    (s.withInputs k b).readRun a len = s.readRun a len := by
  simp only [State.readRun_eq]
  rfl

theorem State.storeRun_withInputs (s : State) (k : Word) (b : Byte) (a : Nat) (bs : List Byte) :
    (s.withInputs k b).storeRun a bs = (s.storeRun a bs).withInputs k b := by
  induction bs generalizing s a with
  | nil => rfl
  | cons c bs ih => exact ih (s.setByte a c) (a + 1)

theorem skipIf_withInputs (c : Bool) (s : State) (k : Word) (b : Byte) :
    ∃ t, skipIf c s = .next t ∧ skipIf c (s.withInputs k b) = .next (t.withInputs k b) := by
  cases c <;> exact ⟨_, rfl, rfl⟩

theorem guardRun_withInputs (base len : Nat) (s t : State) (k : Word) (b : Byte) :
    ∃ u, guardRun base len s t = .next u ∧
      guardRun base len (s.withInputs k b) (t.withInputs k b) = .next (u.withInputs k b) := by
  unfold guardRun
  cases checkRun base len <;> exact ⟨_, rfl, rfl⟩

/-- An instruction runs alike whatever is on an input it does not sample. -/
theorem exec_withInputs {i : Instr} {s : State} {k : Word} {b : Byte} (hk : samplesKeys i = false ∨ k = s.keys)
    (hb : samplesRnd i = false ∨ b = s.rnd) :
    ∃ t, exec i s = .next t ∧ exec i (s.withInputs k b) = .next (t.withInputs k b) := by
  cases i with
  | ret =>
    cases h : s.stack with
    | nil => exact ⟨_, exec_of_faults h, exec_of_faults (s := s.withInputs k b) h⟩
    | cons e rest => exact ⟨_, exec_ret_of_cons h, exec_ret_of_cons (s := s.withInputs k b) h⟩
  | call nnn =>
    by_cases h : s.stackFull = true
    · exact ⟨_, if_pos h, if_pos h⟩
    · exact ⟨_, if_neg h, if_neg h⟩
  | seb | sneb | se | sne => exact skipIf_withInputs _ s k b
  | skp x =>
    obtain rfl : k = s.keys := by simpa [samplesKeys] using hk
    exact skipIf_withInputs (s.keyPressed x) s _ b
  | sknp x =>
    obtain rfl : k = s.keys := by simpa [samplesKeys] using hk
    exact skipIf_withInputs (!s.keyPressed x) s _ b
  | rnd x nn =>
    obtain rfl : b = s.rnd := by simpa [samplesRnd] using hb
    exact ⟨_, rfl, rfl⟩
  | drw x y n =>
    simp only [exec, execDrw, State.readRun_withInputs]
    exact guardRun_withInputs s.base n.toNat s _ k b
  | bcd x =>
    simp only [exec, execBcd, State.storeRun_withInputs]
    exact guardRun_withInputs s.base 3 s _ k b
  | stm x =>
    simp only [exec, execStm, State.storeRun_withInputs]
    exact guardRun_withInputs s.base (x.toNat + 1) s _ k b
  | ldm x => exact guardRun_withInputs s.base (x.toNat + 1) s _ k b
  | _ => exact ⟨_, rfl, rfl⟩

/-- No instruction writes an input (R31). -/
theorem exec_sameInputs {i : Instr} {s t : State} (h : exec i s = .next t) : SameInputs s t := by
  rcases execSpec i s with ⟨-, hexec⟩ | ⟨-, u, hexec, hu⟩ <;> rw [hexec] at h <;> cases h
  · exact ⟨rfl, rfl, rfl, rfl, rfl⟩
  · exact hu.frame.sameInputs

/-! ## Boot (R193, R194) -/

theorem State.hostReset_byte_of_le (s : State) {a : Nat} (ha : 80 ≤ a) : s.hostReset.byte a = 0#8 :=
  dif_neg (not_lt_of_ge ha)

/-- The machine after reset, a load that fits, and start. -/
def State.booted (s : State) (bytes : List Byte) : State := (s.hostReset.storeRun Config.progBase bytes).start

theorem State.booted_pc (s : State) (bytes : List Byte) : (s.booted bytes).pc = 0x200#16 := State.storeRun_pc ..

/-- The ROM is read from where PC starts. -/
theorem State.booted_byte (s : State) {bytes : List Byte} {k : Nat} (hk : k < bytes.length) :
    (s.booted bytes).byte (0x200 + k) = bytes[k] := by
  have h : (s.booted bytes).byte (0x200 + k) = _ := State.byte_storeRun s.hostReset 0x200 (0x200 + k) bytes
  rw [h, if_pos (by omega)]
  simp [hk]

end Sys2Proof.Machine
end

section
/-! PROOFS. Finished machines, calls, inputs, and the operations of the host (spec/40_flow.md, spec/70_reset_and_hazards.md). -/

namespace Sys2Proof.Machine

/-- Settles O54, by induction on the ticks: each is one countdown of both timers. -/
theorem finishedMachineOnlyCountsDown : Obligations.FinishedMachineOnlyCountsDown := by
  intro n
  induction n with
  | zero => exact fun s _ h => ⟨s, rfl, h, rfl, rfl, rfl, frameBut_setPc _ s s.pc⟩
  | succ n ih =>
    intro s hrun h
    have hstep : applyEvent .tick s = .next s.tickTimers := step_of_finished hrun h
    obtain ⟨t, hticks, hfinished, hpc, hdt, hst, hframe⟩ := ih s.tickTimers hrun h.tickTimers
    rw [State.tickTimers_dt, toNat_countDown] at hdt
    rw [State.tickTimers_st, toNat_countDown] at hst
    refine ⟨t, ?_, hfinished, hpc, by omega, by omega, (frameBut_tickTimers trivial trivial s).trans hframe⟩
    rw [List.replicate_succ, applyEvents_cons_of_next hstep, hticks]

/-- Settles O40: the call leaves the return address on the stack and the RET takes it off again. -/
theorem callThenRetResumesAfterTheCall : Obligations.CallThenRetResumesAfterTheCall := by
  intro nnn s hs hroom hfetch hnnn hhi hlo
  obtain ⟨hrun, hhalted⟩ := id hs
  have hcall : applyEvent .tick s = .next (s.called nnn) :=
    step_of_completed hs hfetch (exec_call_of_room hroom) hhalted rfl rfl
  have hpc : (s.called nnn).pc.toNat = nnn.toNat := toNat_zextAddr nnn
  have hword : decode (wordOfBytes ((s.called nnn).byte (s.called nnn).pc.toNat)
      ((s.called nnn).byte ((s.called nnn).pc.toNat + 1))) = .ok .ret := by
    rw [hpc, State.called_byte, State.called_byte, hhi, hlo]
    rfl
  have hret : applyEvent .tick (s.called nnn) = .next ((s.called nnn).dropTop.setPc (s.pc + 2#16)).tickTimers :=
    step_of_completed ⟨hrun, hhalted⟩ (fetchDecode_of_decode (by omega) hword) (exec_ret_of_cons rfl) hhalted rfl rfl
  have hticks : applyEvents [.tick, .tick] s = .next ((s.called nnn).dropTop.setPc (s.pc + 2#16)).tickTimers := by
    rw [applyEvents_cons_of_next hcall, applyEvents_cons_of_next hret]; rfl
  exact ⟨_, hticks, rfl, by simp [FrameBut, SameFaultRecord, SameInputs, State.called]⟩

/-- Settles O55: other levels on the inputs commute with an instruction that does not sample them. -/
theorem inputsReachOnlyTheInstructionsThatSampleThem : Obligations.InputsReachOnlyTheInstructionsThatSampleThem := by
  refine fun i s => ⟨fun hkeys k => ?_, fun hrnd b => ?_⟩
  · obtain ⟨t, ht, hother⟩ := exec_withInputs (s := s) (k := k) (.inl hkeys) (.inr rfl)
    obtain ⟨-, hrnd, -⟩ := exec_sameInputs ht
    have hset : t.withInputs k s.rnd = t.setKeys k := by rw [← hrnd]; rfl
    exact ⟨t, ht, hother.trans (congrArg _ hset)⟩
  · obtain ⟨t, ht, hother⟩ := exec_withInputs (s := s) (b := b) (.inr rfl) (.inl hrnd)
    obtain ⟨hkeys, -⟩ := exec_sameInputs ht
    have hset : t.withInputs s.keys b = t.setRnd b := by rw [← hkeys]; rfl
    exact ⟨t, ht, hother.trans (congrArg _ hset)⟩

/-- Settles O56: reset leaves nothing listed in memory, and every other piece of state at its value of R29. -/
theorem resetLeavesTheValuesOfTheTable : Obligations.ResetLeavesTheValuesOfTheTable := by
  intro s
  have hreg : ∀ z, s.hostReset.reg z = 0#8 := by simp [State.hostReset, State.resetWith, State.reg]
  have hpixel : ∀ x y, s.hostReset.pixel x y = false := FrameBuffer.cell_clear
  exact ⟨fun a h => dif_pos h, fun a h => s.hostReset_byte_of_le h, hreg, rfl, rfl, rfl, hpixel, rfl, rfl, rfl, rfl, rfl,
    ⟨rfl, rfl, rfl, rfl, rfl⟩, rfl⟩

/-- Settles O57: a ROM that fits is stored as one run, and a longer one is not stored. -/
theorem loadRomCopiesAllOrNothing : Obligations.LoadRomCopiesAllOrNothing := by
  intro s bytes
  rcases s.loadRom_cases bytes with ⟨hle, h⟩ | ⟨hlt, h⟩ <;> rw [h]
  · have hbyte : ∀ k, (hk : k < bytes.length) → (s.storeRun Config.progBase bytes).byte (0x200 + k) = bytes[k] := by
      intro k hk
      rw [State.byte_storeRun, Config.progBase, if_pos (by omega)]
      simp [hk]
    refine ⟨fun _ => ⟨rfl, hbyte, frameBut_storeRun (fun a ha => ha) s, State.storeRun_pc ..⟩, fun hlong => ?_⟩
    exact absurd hle (not_le_of_gt hlong)
  · exact ⟨fun hfits => absurd hlt (not_lt_of_ge hfits), fun _ => rfl⟩

/-- Settles O58: a stopped machine ignores every tick, and so does a halted one that is started. -/
theorem stopAndStartLoseNothing : Obligations.StopAndStartLoseNothing := by
  refine fun n s => ⟨?_, fun hs => ?_⟩
  · have hticks : applyEvents (.stop :: List.replicate n .tick) s = .next s.stop := by
      rw [applyEvents_cons_of_next rfl, applyEvents_ticks_of_gated n (.inl rfl)]
    rw [applyEvents_append hticks]
    rfl
  · have hstep : applyEvent .tick s.start = .next s.start := step_of_gated (.inr hs)
    rw [applyEvents_cons_of_next rfl, applyEvents_cons_of_next hstep]
    rfl

/-- Settles O59: load_rom puts the ROM where PC starts, and without it the word there is 0x0000. -/
theorem bootRunsTheFirstRomInstruction : Obligations.BootRunsTheFirstRomInstruction := by
  refine ⟨fun s bytes i rest hle hbytes => ?_, fun s => ?_⟩
  · obtain ⟨hi, lo, rfl, hword⟩ := decodeBytes_eq_ok_iff.mp hbytes
    have hload : applyEvent (.loadRom (hi :: lo :: rest)) s.hostReset =
        .next (s.hostReset.storeRun Config.progBase (hi :: lo :: rest)) := by
      rcases s.hostReset.loadRom_cases (hi :: lo :: rest) with ⟨-, h⟩ | ⟨hlong, -⟩
      · rw [applyEvent, h]
      · exact absurd hle (not_le_of_gt hlong)
    have hreg : ∀ z, (s.booted (hi :: lo :: rest)).reg z = 0#8 := by
      simp [State.booted, State.start, State.hostReset, State.resetWith, State.reg]
    have hfirst : (s.booted (hi :: lo :: rest)).byte 0x200 = hi := s.booted_byte (k := 0) (by simp)
    have hsecond : (s.booted (hi :: lo :: rest)).byte 0x201 = lo := s.booted_byte (k := 1) (by simp)
    have hfetch : fetchDecode (s.booted (hi :: lo :: rest)) = .ok i := by
      refine fetchDecode_of_decode ?_ ?_ <;> rw [State.booted_pc]
      · decide
      · change decode (wordOfBytes (State.byte _ 0x200) (State.byte _ 0x201)) = .ok i
        rw [hfirst, hsecond, hword]
    refine ⟨s.booted (hi :: lo :: rest), ?_, State.booted_pc .., hreg, State.storeRun_stack .., step_of_ok ?_ hfetch⟩
    · rw [applyEvents_cons_of_next rfl, applyEvents_cons_of_next hload]
      rfl
    · exact ⟨rfl, State.storeRun_halted ..⟩
  · have hpc : (0x200#16 : Word).toNat ≤ 0xFFE := by decide
    have hword : wordOfBytes (s.hostReset.start.byte s.hostReset.start.pc.toNat)
        (s.hostReset.start.byte (s.hostReset.start.pc.toNat + 1)) = 0x0000#16 := by
      change wordOfBytes (s.hostReset.byte 0x200) (s.hostReset.byte 0x201) = 0x0000#16
      rw [State.hostReset_byte_of_le s (by decide), State.hostReset_byte_of_le s (by decide)]
      rfl
    have hstep : applyEvent .tick s.hostReset.start = .next _ :=
      unrecognizedWordFaults s.hostReset.start ⟨rfl, rfl⟩ hpc (by rw [hword]; decide)
    rw [applyEvents_cons_of_next rfl, applyEvents_cons_of_next rfl, applyEvents_cons_of_next hstep, hword]
    rfl

end Sys2Proof.Machine
end

section
/-! PROOFS. Memory as data (spec/20_memory.md): the canonical form and single writes. -/

namespace Sys2Proof.Machine

section
variable {font : Vector Byte 80}

/-- The listed address a canonical memory begins with does not read as unlisted. -/
theorem Memory.read_head_ne_unlisted {c : Host.Cell} {m : Memory} {lo : Nat} (h : Memory.wfFrom font lo (c :: m)) :
    Memory.read font (c :: m) c.1 ≠ Memory.unlisted font c.1 := by
  simp only [Memory.wfFrom, Bool.and_eq_true, decide_eq_true_eq] at h
  obtain ⟨⟨-, -, hne⟩, -⟩ := h
  simpa [Memory.read] using hne

theorem Memory.wfFrom_tail {c : Host.Cell} {m : Memory} {lo : Nat} (h : Memory.wfFrom font lo (c :: m)) :
    Memory.wfFrom font (c.1 + 1) m := by
  simp only [Memory.wfFrom, Bool.and_eq_true] at h
  exact h.2

/-- Of two canonical memories that read alike, the second does not begin at a higher address. -/
theorem Memory.head_le_of_read_eq {c d : Host.Cell} {m n : Memory} {lo : Nat} (hm : Memory.wfFrom font lo (c :: m))
    (hn : Memory.wfFrom font lo (d :: n)) (h : ∀ a, Memory.read font (c :: m) a = Memory.read font (d :: n) a) :
    d.1 ≤ c.1 := by
  by_contra hlt
  have hunlisted : Memory.read font (d :: n) c.1 = Memory.unlisted font c.1 := by
    have htail := Memory.read_of_lt (Memory.wfFrom_tail hn) (show c.1 < d.1 + 1 by omega)
    rw [Memory.read, if_neg (by omega), htail]
  exact Memory.read_head_ne_unlisted hm ((h c.1).trans hunlisted)

/-- Canonical memories that read alike are equal: the first listed address of either reads as something an unlisted address
does not. -/
theorem Memory.eq_of_read_eq {m n : Memory} {lo : Nat} (hm : Memory.wfFrom font lo m)
    (hn : Memory.wfFrom font lo n) (h : ∀ a, Memory.read font m a = Memory.read font n a) : m = n := by
  induction m generalizing lo n with
  | nil =>
    cases n with
    | nil => rfl
    | cons d n => exact absurd (h d.1).symm (Memory.read_head_ne_unlisted hn)
  | cons c m ih =>
    cases n with
    | nil => exact absurd (h c.1) (Memory.read_head_ne_unlisted hm)
    | cons d n =>
      have haddr : c.1 = d.1 := le_antisymm
        (Memory.head_le_of_read_eq hn hm fun a => (h a).symm) (Memory.head_le_of_read_eq hm hn h)
      have hbyte : c.2 = d.2 := by simpa [Memory.read, haddr] using h c.1
      have htail : ∀ a, Memory.read font m a = Memory.read font n a := by
        intro a
        by_cases ha : a = c.1
        · rw [Memory.read_of_lt (Memory.wfFrom_tail hm) (by omega), Memory.read_of_lt (Memory.wfFrom_tail hn) (by omega)]
        · simpa [Memory.read, ← haddr, Ne.symm ha] using h a
      rw [Prod.ext haddr hbyte, ih (Memory.wfFrom_tail hm) (haddr ▸ Memory.wfFrom_tail hn) htail]

end

/-- Settles O22, by induction on the two lists: the heads read alike, hence are the same entry. -/
theorem canonicalMemoriesWithTheSameBytesAreEqual : Obligations.CanonicalMemoriesWithTheSameBytesAreEqual :=
  fun _ _ _ hm hn h => Memory.eq_of_read_eq hm hn h

theorem frameBut_setByte {c : MayChange} {a : Nat} (hc : c.mem a) (s : State) (b : Byte) : FrameBut c s (s.setByte a b) := by
  have hrun : ∀ k, a ≤ k ∧ k < a + [b].length → c.mem k := by
    intro k hk
    obtain rfl : k = a := by simp at hk; omega
    exact hc
  exact frameBut_storeRun hrun s

/-- Settles O23: a write is read back at its own address, and changes nothing but that byte. -/
theorem byteReadsWhatWasLastWritten : Obligations.ByteReadsWhatWasLastWritten :=
  fun s a k b => ⟨s.byte_setByte a k b, frameBut_setByte rfl s b, rfl⟩

end Sys2Proof.Machine
end

section
/-! PROOFS. Register-to-register operations that write the flag, and the bitwise ones that do not (spec/43_alu.md). -/

namespace Sys2Proof.Machine

section
variable (x y : Nibble) (s : State)

theorem exec_or : exec (.or x y) s = .next (s.setReg x (s.reg x ||| s.reg y)).advance := rfl
theorem exec_and : exec (.and x y) s = .next (s.setReg x (s.reg x &&& s.reg y)).advance := rfl
theorem exec_xor : exec (.xor x y) s = .next (s.setReg x (s.reg x ^^^ s.reg y)).advance := rfl

theorem exec_add : exec (.add x y) s =
    .next (s.setFlagThenReg (carryFlag (s.reg x) (s.reg y)) x (s.reg x + s.reg y)).advance := rfl

theorem exec_sub : exec (.sub x y) s =
    .next (s.setFlagThenReg (greaterFlag (s.reg x) (s.reg y)) x (s.reg x - s.reg y)).advance := rfl

theorem exec_subn : exec (.subn x y) s =
    .next (s.setFlagThenReg (noBorrowFlag (s.reg x) (s.reg y)) x (s.reg y - s.reg x)).advance := rfl

theorem exec_shr : exec (.shr x y) s = .next (s.setFlagThenReg (lowBitFlag (s.reg y)) x (s.reg y >>> 1)).advance := rfl

theorem exec_shl : exec (.shl x y) s = .next (s.setFlagThenReg (highBitFlag (s.reg x)) x (s.reg y <<< 1)).advance := rfl

end

theorem reg_setReg_advance (s : State) (x : Nibble) (b : Byte) : (s.setReg x b).advance.reg x = b := by
  rw [State.advance_reg, State.reg_setReg_self]

/-- What a flag-writing operation leaves (R110): the result always, the flag when the result is not in VF. -/
theorem setFlagThenReg_advance_spec (s : State) (c : Bool) (x : Nibble) (r : Byte) :
    (s.setFlagThenReg c x r).advance.reg x = r ∧
      (x ≠ regF → (s.setFlagThenReg c x r).advance.reg regF = flagByte c) ∧
      FrameBut { reg := fun z => z = x ∨ z = regF } s (s.setFlagThenReg c x r).advance := by
  refine ⟨?_, fun hx => ?_, (frameBut_setFlagThenReg (Or.inr rfl) (Or.inl rfl) s c r).advance⟩
  · rw [State.advance_reg, State.reg_setFlagThenReg, if_pos rfl]
  · rw [State.advance_reg, State.reg_setFlagThenReg, if_neg hx.symm, if_pos rfl]

/-! ## Flags as numbers (R115 to R119) -/

theorem flagByte_carryFlag (a b : Byte) : flagByte (carryFlag a b) = if 255 < a.toNat + b.toNat then 1#8 else 0#8 := by
  simp [flagByte, carryFlag]

theorem flagByte_greaterFlag (a b : Byte) : flagByte (greaterFlag a b) = if b.toNat < a.toNat then 1#8 else 0#8 := by
  simp [flagByte, greaterFlag]

theorem flagByte_noBorrowFlag (a b : Byte) : flagByte (noBorrowFlag a b) = if b.toNat < a.toNat then 0#8 else 1#8 := by
  by_cases h : b.toNat < a.toNat <;> simp [flagByte, noBorrowFlag, h]

/-- Bit `k` of a byte as the byte VF holds. -/
theorem toNat_flagByte_getLsbD (b : Byte) (k : Nat) : (flagByte (b.getLsbD k)).toNat = b.toNat / 2 ^ k % 2 := by
  rw [BitVec.getLsbD, Nat.testBit_eq_decide_div_mod_eq]
  by_cases h : b.toNat / 2 ^ k % 2 = 1
  · simp [flagByte, h]
  · simp [flagByte, h]
    omega

theorem toNat_flagByte_lowBitFlag (b : Byte) : (flagByte (lowBitFlag b)).toNat = b.toNat % 2 := by
  rw [lowBitFlag, toNat_flagByte_getLsbD, pow_zero, Nat.div_one]

theorem toNat_flagByte_highBitFlag (a : Byte) : (flagByte (highBitFlag a)).toNat = a.toNat / 128 := by
  have := a.isLt
  rw [highBitFlag, toNat_flagByte_getLsbD]
  omega

/-- Byte subtraction is modulo 256 (R120). -/
theorem toNat_byte_sub (a b : Byte) : (a - b).toNat = (a.toNat + 256 - b.toNat) % 256 := by
  have := b.isLt
  rw [BitVec.toNat_sub]
  omega

/-- Settles O30: each is one register write of a bitwise result, and the advance. -/
theorem orAndXorAreBitwiseWithoutFlag : Obligations.OrAndXorAreBitwiseWithoutFlag := by
  intro x y s
  refine ⟨⟨encodes_or x y, _, exec_or x y s, ?_, rfl, (frameBut_setReg rfl s _).advance⟩,
    ⟨encodes_and x y, _, exec_and x y s, ?_, rfl, (frameBut_setReg rfl s _).advance⟩,
    encodes_xor x y, _, exec_xor x y s, ?_, ?_, rfl, (frameBut_setReg rfl s _).advance⟩
  · intro k
    rw [reg_setReg_advance, BitVec.getLsbD_or]
  · intro k
    rw [reg_setReg_advance, BitVec.getLsbD_and]
  · intro k
    rw [reg_setReg_advance, BitVec.getLsbD_xor]
  · rintro rfl
    rw [reg_setReg_advance, BitVec.xor_self]

/-- Settles O31: the sum of bytes is the sum modulo 256, and the flag is computed from the old operands. -/
theorem addWritesCarryThenSum : Obligations.AddWritesCarryThenSum := by
  intro x y s
  obtain ⟨hresult, hflag, hframe⟩ :=
    setFlagThenReg_advance_spec s (carryFlag (s.reg x) (s.reg y)) x (s.reg x + s.reg y)
  refine ⟨encodes_add x y, _, exec_add x y s, ?_, fun hx => ?_, rfl, hframe⟩
  · rw [hresult, BitVec.toNat_add]
  · rw [hflag hx, flagByte_carryFlag]

/-- Settles O32: differences modulo 256, with the comparison each rule names as the flag. -/
theorem subAndSubnWriteTheirComparisonThenDifference : Obligations.SubAndSubnWriteTheirComparisonThenDifference := by
  intro x y s
  constructor
  · obtain ⟨hresult, hflag, hframe⟩ :=
      setFlagThenReg_advance_spec s (greaterFlag (s.reg x) (s.reg y)) x (s.reg x - s.reg y)
    refine ⟨encodes_sub x y, _, exec_sub x y s, ?_, fun hx => ?_, rfl, hframe⟩
    · rw [hresult, toNat_byte_sub]
    · rw [hflag hx, flagByte_greaterFlag]
  · obtain ⟨hresult, hflag, hframe⟩ :=
      setFlagThenReg_advance_spec s (noBorrowFlag (s.reg x) (s.reg y)) x (s.reg y - s.reg x)
    refine ⟨encodes_subn x y, _, exec_subn x y s, ?_, fun hx => ?_, rfl, hframe⟩
    · rw [hresult, toNat_byte_sub]
    · rw [hflag hx, flagByte_noBorrowFlag]

/-- Settles O33: shifts by one are division and multiplication by 2, and the flag is the bit each rule names. -/
theorem shiftsTakeVyAndTheirOwnFlag : Obligations.ShiftsTakeVyAndTheirOwnFlag := by
  intro x y s
  constructor
  · obtain ⟨hresult, hflag, hframe⟩ := setFlagThenReg_advance_spec s (lowBitFlag (s.reg y)) x (s.reg y >>> 1)
    refine ⟨encodes_shr x y, _, exec_shr x y s, ?_, fun hx => ?_, rfl, hframe⟩
    · rw [hresult, BitVec.toNat_ushiftRight, Nat.shiftRight_one]
    · rw [hflag hx, toNat_flagByte_lowBitFlag]
  · obtain ⟨hresult, hflag, hframe⟩ := setFlagThenReg_advance_spec s (highBitFlag (s.reg x)) x (s.reg y <<< 1)
    refine ⟨encodes_shl x y, _, exec_shl x y s, ?_, fun hx => ?_, rfl, hframe⟩
    · rw [hresult, BitVec.toNat_shiftLeft, Nat.shiftLeft_eq, pow_one]
    · rw [hflag hx, toNat_flagByte_highBitFlag]

end Sys2Proof.Machine
end

section
/-! PROOFS. The random byte, skips and control transfer (spec/40_flow.md, spec/41_skip.md, spec/42_immediate.md). -/

namespace Sys2Proof.Machine

theorem exec_rnd (x : Nibble) (nn : Byte) (s : State) :
    exec (.rnd x nn) s = .next (s.setReg x (s.rnd &&& nn)).advance := rfl
theorem exec_se (x y : Nibble) (s : State) : exec (.se x y) s = skipIf (s.reg x == s.reg y) s := rfl
theorem exec_sne (x y : Nibble) (s : State) : exec (.sne x y) s = skipIf (s.reg x != s.reg y) s := rfl
theorem exec_skp (x : Nibble) (s : State) : exec (.skp x) s = skipIf (s.keyPressed x) s := rfl
theorem exec_sknp (x : Nibble) (s : State) : exec (.sknp x) s = skipIf (!s.keyPressed x) s := rfl
theorem exec_jpv (x : Nibble) (nn : Byte) (s : State) :
    exec (.jpv x nn) s = .next (s.setPc (jpvTarget nn (s.reg x))) := rfl

/-- After a completed tick an input that was sampled is the free value of its sample (log entry 1). -/
theorem finishTick_keys_of_samples {i : Instr} {t : State} (ht : t.halted = false) (hi : samplesKeys i = true) :
    (finishTick i t).keys = Config.keysInput t.samples := by
  rw [finishTick_of_running ht, State.refreshInputs, if_pos hi]
  rfl

theorem finishTick_rnd_of_samples {i : Instr} {t : State} (ht : t.halted = false) (hkeys : samplesKeys i = false)
    (hi : samplesRnd i = true) : (finishTick i t).rnd = Config.rndInput t.samples := by
  rw [finishTick_of_running ht, State.refreshInputs, hkeys, if_pos hi]
  rfl

/-- Settles O28: one register write of the masked byte, and the advance. -/
theorem rndMasksTheSampledByte : Obligations.RndMasksTheSampledByte := by
  intro x nn s
  refine ⟨encodes_rnd x nn, _, exec_rnd x nn s, reg_setReg_advance s x _, fun k hk => ?_, rfl,
    (frameBut_setReg rfl s _).advance, fun hs => finishTick_rnd_of_samples hs rfl rfl⟩
  rw [reg_setReg_advance, BitVec.getLsbD_and, hk, Bool.and_false]

/-- In groups 5 and 9 a low nibble other than 0 is refused (C7, D7). -/
theorem decode_encodeXY_of_low_ne_zero {g x y n : Nibble} (hg : g = 0x5#4 ∨ g = 0x9#4) (hn : n ≠ 0#4) :
    decode (encodeXY g x y n) = .error (.unrecognized (encodeXY g x y n)) := by
  refine decode_eq_error.mpr ⟨decodeRow_eq_none_iff.mpr ?_, rfl⟩
  rw [fieldG_encodeXY, fieldN_encodeXY]
  rcases hg with hg | hg
  · exact .inr (.inl ⟨hg, hn⟩)
  · exact .inr (.inr (.inr (.inl ⟨hg, hn⟩)))

/-- Settles O35: both are the shared skip, on the comparison of the two registers. -/
theorem seAndSneSkipOnTheRegisters : Obligations.SeAndSneSkipOnTheRegisters := by
  intro x y s
  refine ⟨⟨encodes_se x y, ?_⟩, ⟨encodes_sne x y, ?_⟩, fun n hn =>
    ⟨decode_encodeXY_of_low_ne_zero (.inl rfl) hn, decode_encodeXY_of_low_ne_zero (.inr rfl) hn⟩⟩
  · obtain ⟨t, hexec, hframe, hskip, hadvance⟩ := skipIf_spec (s.reg x == s.reg y) s
    exact ⟨t, (exec_se x y s).trans hexec, hframe, fun h => hskip (beq_iff_eq.mpr h),
      fun h => hadvance (beq_eq_false_iff_ne.mpr h), fun h => hskip (beq_iff_eq.mpr (congrArg s.reg h))⟩
  · obtain ⟨t, hexec, hframe, hskip, hadvance⟩ := skipIf_spec (s.reg x != s.reg y) s
    exact ⟨t, (exec_sne x y s).trans hexec, hframe, fun h => hskip (bne_iff_ne.mpr h),
      fun h => hadvance (bne_eq_false_iff_eq.mpr h), fun h => hadvance (bne_eq_false_iff_eq.mpr (congrArg s.reg h))⟩

/-- The key-state sampled after a skip on a key, which keeps the latch and the sample counter. -/
theorem finishTick_keys_of_frame {i : Instr} {s t : State} (hframe : FrameBut {} s t) (hi : samplesKeys i = true)
    (hs : s.halted = false) : (finishTick i t).keys = Config.keysInput s.samples := by
  obtain ⟨hhalted, -⟩ := hframe.sameFaultRecord
  obtain ⟨-, -, -, hsamples, -⟩ := hframe.sameInputs
  rw [finishTick_keys_of_samples (hhalted.trans hs) hi, hsamples]

/-- Settles O36: both are the shared skip, on bit X of the key-state, and no register is read. -/
theorem skpAndSknpTestTheKeyOfTheOpcode : Obligations.SkpAndSknpTestTheKeyOfTheOpcode := by
  intro x s
  refine ⟨⟨encodes_skp x, ?_⟩, encodes_sknp x, ?_⟩
  · obtain ⟨t, hexec, hframe, hskip, hadvance⟩ := skipIf_spec (s.keyPressed x) s
    exact ⟨t, (exec_skp x s).trans hexec, hframe, hskip, hadvance, finishTick_keys_of_frame hframe rfl⟩
  · obtain ⟨t, hexec, hframe, hskip, hadvance⟩ := skipIf_spec (!s.keyPressed x) s
    exact ⟨t, (exec_sknp x s).trans hexec, hframe, fun h => hskip (congrArg not h),
      fun h => hadvance (congrArg not h), finishTick_keys_of_frame hframe rfl⟩

/-- Settles O37: both assign PC, from NNN and from a sum of two bytes. -/
theorem jpAndJpvAssignPc : Obligations.JpAndJpvAssignPc := by
  refine ⟨fun nnn s => ?_, fun x nn s => ?_⟩
  · exact ⟨encodes_jp nnn, _, exec_jp nnn s, toNat_zextAddr nnn, frameBut_setPc _ s _⟩
  · have hpc := toNat_jpvTarget nn (s.reg x)
    have hbound : (jpvTarget nn (s.reg x)).toNat ≤ 510 := by
      have := nn.isLt
      have := (s.reg x).isLt
      omega
    exact ⟨encodes_jpv x nn, _, exec_jpv x nn s, hpc, hbound, frameBut_setPc _ s _⟩

/-- Settles O38: with room on the stack CALL is a push and an assignment to PC. -/
theorem callPushesTheReturnAddress : Obligations.CallPushesTheReturnAddress := by
  intro nnn s
  exact ⟨encodes_call nnn, fun hroom => ⟨_, exec_call_of_room hroom, rfl, toNat_zextAddr nnn,
    (frameBut_push trivial s _).trans (frameBut_setPc _ _ _)⟩⟩

/-- Settles O39: on a stack with an entry RET drops it and assigns it to PC. -/
theorem retPopsIntoPc : Obligations.RetPopsIntoPc := by
  intro e rest s h
  exact ⟨encodes_ret, _, exec_ret_of_cons h, rfl, by simp [h],
    (frameBut_dropTop trivial s).trans (frameBut_setPc _ _ e)⟩

end Sys2Proof.Machine
end

section
/-! PROOFS. Display: CLS and DRW (spec/44_display.md). -/

namespace Sys2Proof.Machine

theorem exec_cls (s : State) : exec .cls s = .next (s.setFb FrameBuffer.clear).flush.advance := rfl

/-- Settles O41: CLS writes the clear framebuffer, raises one flush and advances. -/
theorem clsClearsTheFramebuffer : Obligations.ClsClearsTheFramebuffer := by
  intro s
  exact ⟨encodes_cls, _, exec_cls s, FrameBuffer.cell_clear, rfl, rfl,
    ((frameBut_setFb trivial s _).trans (frameBut_flush trivial _)).advance⟩

/-! ## Drawing (R131) -/

/-- The framebuffer and the collision that drawing the sprite at I gives. -/
def State.drawn (s : State) (x y n : Nibble) : FrameBuffer × Bool :=
  drawRows (spriteX (s.reg x)) (s.readRun s.base n.toNat) (spriteY (s.reg y)) (s.fb, false)

section
variable {x y n : Nibble} {s t : State}

/-- DRW with its rows in memory (D18): the drawn framebuffer, VF the collision, one flush. -/
theorem exec_drw_of_rows (h : n = 0#4 ∨ s.idx.toNat + n.toNat ≤ 4096) : exec (.drw x y n) s =
    .next (((s.setFb (s.drawn x y n).1).setReg regF (flagByte (s.drawn x y n).2)).flush.advance) := by
  change guardRun s.base n.toNat s _ = _
  rcases h with rfl | h
  · exact guardRun_zero s s.base _
  · exact guardRun_of_le s _ h

/-- The statement's sprite bit is that of the rows read at I. -/
theorem drwBit_eq_spriteBit (px : Fin 64) (py : Fin 32) : drwBit s x y n px py =
    spriteBit (s.readRun s.base n.toNat) (spriteX (s.reg x)) (spriteY (s.reg y)) px.val py.val := by
  unfold drwBit spriteBit spriteX spriteY
  rw [State.length_readRun]
  by_cases hrow : py.val - (s.reg y).toNat % 32 < n.toNat
  · have hbyte : (s.readRun s.base n.toNat).getD (py.val - (s.reg y).toNat % 32) 0#8 =
        s.byte (s.idx.toNat + (py.val - (s.reg y).toNat % 32)) := by
      simp [State.readRun_eq, List.getD_eq_getElem?_getD, hrow, State.base]
    rw [hbyte]
  · rw [decide_eq_false (by omega), Bool.false_and, Bool.false_and]

theorem cell_drawn (px : Fin 64) (py : Fin 32) :
    FrameBuffer.cell (s.drawn x y n).1 px py = (s.pixel px py ^^ drwBit s x y n px py) := by
  rw [State.drawn, drawRows_cell, drwBit_eq_spriteBit]
  rfl

theorem drawn_collision :
    (s.drawn x y n).2 = true ↔ ∃ px py, drwBit s x y n px py = true ∧ s.pixel px py = true := by
  rw [State.drawn, drawRows_collision]
  simp only [drwBit_eq_spriteBit, Bool.false_eq_true, false_or]
  rfl

theorem flagByte_eq_one_iff {c : Bool} : flagByte c = 1#8 ↔ c = true := by
  cases c <;> simp [flagByte]

/-- What DRW with its rows in memory leaves. -/
structure Draws (x y n : Nibble) (s t : State) : Prop where
  pixel : ∀ px py, t.pixel px py = (s.pixel px py ^^ drwBit s x y n px py)
  flag : t.reg regF = flagByte (s.drawn x y n).2
  flushes : t.flushes = s.flushes + 1
  pc : t.pc = s.pc + 2#16
  frame : FrameBut { reg := fun z => z = regF, display := True } s t

theorem exec_drw_draws (h : n = 0#4 ∨ s.idx.toNat + n.toNat ≤ 4096) :
    ∃ t, exec (.drw x y n) s = .next t ∧ Draws x y n s t :=
  ⟨_, exec_drw_of_rows h, cell_drawn, State.reg_setReg_self .., rfl, rfl,
    ((((frameBut_setFb trivial s _).trans (frameBut_setReg rfl _ _)).trans (frameBut_flush trivial _)).advance)⟩

theorem draws_of_exec (h : n = 0#4 ∨ s.idx.toNat + n.toNat ≤ 4096) (hexec : exec (.drw x y n) s = .next t) :
    Draws x y n s t := by
  obtain ⟨u, hu, hdraws⟩ := exec_drw_draws (x := x) (y := y) h
  rw [hu] at hexec
  cases hexec
  exact hdraws

theorem Draws.flag_eq_one_iff (h : Draws x y n s t) :
    t.reg regF = 1#8 ↔ ∃ px py, drwBit s x y n px py = true ∧ s.pixel px py = true := by
  rw [h.flag, flagByte_eq_one_iff, drawn_collision]

theorem Draws.flag_eq_zero_or_one (h : Draws x y n s t) : t.reg regF = 0#8 ∨ t.reg regF = 1#8 := by
  rw [h.flag]
  cases (s.drawn x y n).2
  · exact .inl rfl
  · exact .inr rfl

/-- A draw with coordinates outside VF leaves the same sprite to draw again. -/
theorem Draws.drwBit_eq (h : Draws x y n s t) (hx : x ≠ regF) (hy : y ≠ regF) : drwBit t x y n = drwBit s x y n := by
  have hbyte : t.byte = s.byte := funext fun a => h.frame.byte id
  unfold drwBit
  rw [h.frame.reg hx, h.frame.reg hy, h.frame.idx id, hbyte]

end

/-- Settles O42: the loop over rows and bits, cell by cell (`drawRows_cell`, `drawRows_collision`). -/
theorem drwXorsTheSpriteAndReportsCollision : Obligations.DrwXorsTheSpriteAndReportsCollision := by
  intro x y n s h
  obtain ⟨t, hexec, ht⟩ := exec_drw_draws (x := x) (y := y) h
  exact ⟨encodes_drw x y n, t, hexec, ht.pixel, ht.flag_eq_zero_or_one, ht.flag_eq_one_iff, ht.flushes, ht.pc, ht.frame⟩

/-- Settles O43: the second draw XORs the same bits, so each cell is XORed with the same bit twice. -/
theorem drawingTwiceRestoresTheFramebuffer : Obligations.DrawingTwiceRestoresTheFramebuffer := by
  intro x y n s t u hx hy h hst htu
  have ht : Draws x y n s t := draws_of_exec h hst
  have hu : Draws x y n t u := draws_of_exec (by rwa [ht.frame.idx id]) htu
  have hbit := ht.drwBit_eq hx hy
  have hvf : u.reg regF = 1#8 ↔ ∃ px py, drwBit s x y n px py = true ∧ t.pixel px py = true := by
    rw [hu.flag_eq_one_iff, hbit]
  refine ⟨FrameBuffer.ext_cell fun px py => ?_, hvf, fun hclear => ?_⟩
  · change u.pixel px py = s.pixel px py
    rw [hu.pixel, ht.pixel, hbit, Bool.xor_assoc, Bool.xor_self, Bool.xor_false]
  · have hpixel : ∀ px py, t.pixel px py = drwBit s x y n px py := by
      intro px py
      rw [ht.pixel, hclear, Bool.false_xor]
    have hzero : t.reg regF = 0#8 := by
      refine ht.flag_eq_zero_or_one.resolve_right fun hone => ?_
      obtain ⟨px, py, -, hon⟩ := ht.flag_eq_one_iff.mp hone
      rw [hclear] at hon
      cases hon
    refine ⟨hzero, hpixel, ?_⟩
    simp only [hvf, hpixel, and_self]

end Sys2Proof.Machine
end

section
/-! PROOFS. The sound timer, ADDI, and the transfers between registers and memory (spec/45_timer_index_memory.md). -/

namespace Sys2Proof.Machine

theorem exec_stst (x : Nibble) (s : State) : exec (.stst x) s = .next (s.setSt (s.reg x)).advance := rfl

theorem exec_addi (x : Nibble) (s : State) : exec (.addi x) s = .next (s.setIdx (addIndex s.idx (s.reg x))).advance := rfl

/-- Settles O45: one write of ST and the advance; the countdown comes after it. -/
theorem ststSetsTheSoundTimer : Obligations.StstSetsTheSoundTimer := by
  intro x s hs
  have hst : (finishTick (.stst x) (s.setSt (s.reg x)).advance).stValue.toNat = (s.reg x).toNat - 1 :=
    toNat_finishTick_st _ hs
  refine ⟨encodes_stst x, _, exec_stst x s, rfl, rfl, (frameBut_setSt trivial s _).advance, hst, fun hle => ?_⟩
  have hzero : (finishTick (.stst x) (s.setSt (s.reg x)).advance).stValue = 0#8 := by
    refine BitVec.eq_of_toNat_eq ?_
    rw [hst]
    simp
    omega
  simp [State.toneGate, hzero]

/-- Settles O46: one write of I and the advance; 12 bits hold the sum modulo 4096. -/
theorem addiAddsModulo4096WithoutFlag : Obligations.AddiAddsModulo4096WithoutFlag := by
  intro x s
  have hsum : (addIndex s.idx (s.reg x)).toNat = (s.idx.toNat + (s.reg x).toNat) % 4096 := by
    rw [addIndex, BitVec.toNat_ofNat]
  exact ⟨encodes_addi x, _, exec_addi x s, hsum, rfl, (frameBut_setIdx trivial s _).advance⟩

/-! ## Runs at I (R145 to R148) -/

section
variable {x : Nibble} {s : State}

theorem exec_bcd_of_fits (h : s.idx.toNat + 3 ≤ 4096) :
    exec (.bcd x) s = .next (s.storeRun s.idx.toNat (bcdDigits (s.reg x))).advance := guardRun_of_le s _ h

theorem exec_stm_of_fits (h : s.idx.toNat + x.toNat < 4096) :
    exec (.stm x) s = .next (s.storeRun s.idx.toNat (s.regsUpTo x)).advance :=
  guardRun_of_le s _ (show s.idx.toNat + (x.toNat + 1) ≤ 4096 by omega)

theorem exec_ldm_of_fits (h : s.idx.toNat + x.toNat < 4096) :
    exec (.ldm x) s = .next (s.loadRegs s.idx.toNat x).advance :=
  guardRun_of_le s _ (show s.idx.toNat + (x.toNat + 1) ≤ 4096 by omega)

/-- The k-th byte STM stores. -/
theorem byte_storeRun_regsUpTo (a : Nat) {z : Nibble} (hz : z.toNat ≤ x.toNat) :
    (s.storeRun a (s.regsUpTo x)).byte (a + z.toNat) = s.reg z := by
  rw [State.byte_storeRun, State.length_regsUpTo, if_pos (by omega), Nat.add_sub_cancel_left, State.getD_regsUpTo s x z hz]

end

/-- The k-th byte BCD stores. -/
theorem byte_storeRun_bcdDigits (s : State) (a : Nat) (b : Byte) {k : Nat} (hk : k < 3) :
    (s.storeRun a (bcdDigits b)).byte (a + k) = (bcdDigits b).getD k 0#8 := by
  rw [State.byte_storeRun, length_bcdDigits, if_pos (by omega), Nat.add_sub_cancel_left]

/-- A decimal digit of a byte is stored as it is. -/
theorem toNat_ofNat_byte {n : Nat} (h : n < 256) : (BitVec.ofNat 8 n).toNat = n := Nat.mod_eq_of_lt h

/-- Settles O48: BCD stores the run of the three digits. -/
theorem bcdStoresTheDecimalDigits : Obligations.BcdStoresTheDecimalDigits := by
  intro x s h
  have hlt := (s.reg x).isLt
  refine ⟨encodes_bcd x, _, exec_bcd_of_fits (by omega), ?_, ?_, ?_, ?_, (frameBut_storeRun (fun k hk => hk) s).advance⟩
  · have hbyte := byte_storeRun_bcdDigits s s.idx.toNat (s.reg x) (k := 0) (by decide)
    rw [Nat.add_zero] at hbyte
    rw [State.advance_byte, hbyte]
    exact toNat_ofNat_byte (n := (s.reg x).toNat / 100) (by omega)
  · rw [State.advance_byte, byte_storeRun_bcdDigits s s.idx.toNat (s.reg x) (by decide)]
    exact toNat_ofNat_byte (n := (s.reg x).toNat / 10 % 10) (by omega)
  · rw [State.advance_byte, byte_storeRun_bcdDigits s s.idx.toNat (s.reg x) (by decide)]
    exact toNat_ofNat_byte (n := (s.reg x).toNat % 10) (by omega)
  · rw [State.advance_pc, State.storeRun_pc]

/-- Settles O49: STM stores the run of V[0] to V[X]. -/
theorem stmStoresTheRegisters : Obligations.StmStoresTheRegisters := by
  intro x s h
  have hmem : ∀ k, s.idx.toNat ≤ k ∧ k < s.idx.toNat + (s.regsUpTo x).length →
      s.idx.toNat ≤ k ∧ k ≤ s.idx.toNat + x.toNat := by
    intro k hk
    rw [State.length_regsUpTo] at hk
    omega
  exact ⟨encodes_stm x, _, exec_stm_of_fits h, fun z hz => byte_storeRun_regsUpTo s.idx.toNat hz,
    by rw [State.advance_pc, State.storeRun_pc], (frameBut_storeRun hmem s).advance⟩

/-- Settles O50: LDM loads V[0] to V[X] from the run at I. -/
theorem ldmLoadsTheRegisters : Obligations.LdmLoadsTheRegisters := by
  intro x s h
  refine ⟨encodes_ldm x, _, exec_ldm_of_fits h, fun z hz => ?_, ?_, (frameBut_loadRegs (fun z hz => hz) s _).advance⟩
  · rw [State.advance_reg, State.reg_loadRegs, if_pos hz]
  · rw [State.advance_pc, State.loadRegs_pc]

/-- Settles O51: LDM reads back what STM stored, because I and the bytes are as STM left them. -/
theorem ldmAfterStmRestoresTheRegisters : Obligations.LdmAfterStmRestoresTheRegisters := by
  intro x s t u h hst hidx hbyte
  rw [exec_stm_of_fits h] at hst
  cases hst
  rw [State.advance_idx, State.storeRun_idx] at hidx
  refine ⟨_, exec_ldm_of_fits (by rw [hidx]; exact h), fun z hz => ?_, fun z hz => ?_⟩
  · rw [State.advance_reg, State.reg_loadRegs, if_pos hz, hidx, hbyte]
    exact byte_storeRun_regsUpTo s.idx.toNat hz
  · rw [State.advance_reg, State.reg_loadRegs, if_neg (not_le_of_gt hz)]

/-- Settles O52: the fetch reads the bytes that STM has just stored at PC. -/
theorem nextFetchSeesTheStore : Obligations.NextFetchSeesTheStore := by
  intro x k s t h hk hpc hst
  rw [exec_stm_of_fits h] at hst
  cases hst
  have hsucc : (k + 1#4).toNat = k.toNat + 1 := by
    have := x.isLt
    rw [BitVec.toNat_add]
    simp only [BitVec.toNat_ofNat]
    omega
  have hfetchPc : (s.pc + 2#16).toNat = s.idx.toNat + k.toNat := by
    rw [BitVec.toNat_add]
    simp only [BitVec.toNat_ofNat]
    omega
  rcases fetch_cases (finishTick (.stm x) (s.storeRun s.idx.toNat (s.regsUpTo x)).advance) with ⟨-, hfetch⟩ | ⟨hlt, -⟩
  · simp only [finishTick_pc, finishTick_byte, State.advance_pc, State.advance_byte, State.storeRun_pc, hfetchPc] at hfetch
    rw [hfetch, byte_storeRun_regsUpTo s.idx.toNat hk.le, Nat.add_assoc, ← hsucc,
      byte_storeRun_regsUpTo s.idx.toNat (by omega)]
  · rw [finishTick_pc, State.advance_pc, State.storeRun_pc] at hlt
    omega

end Sys2Proof.Machine
end
